-- ==== Sys2Proof/Word.lean ====
section
/-! DEFINITION. The block's plain value types (spec 00_scope.md R7, R8). -/

namespace Sys2Proof

/-- One byte: every bus transfer and every NV access is one byte wide (R69). -/
abbrev Byte := BitVec 8

/-- A 32-bit value: page indices, cursors, the page count and command arguments (R7). -/
abbrev Word := BitVec 32

/-- A host command word or a result word (R90, R93). -/
abbrev HostWord := BitVec 16

/-- A card command frame, F0 in bits 47:40 and the trailer F5 in bits 7:0 (R96). -/
abbrev Frame := BitVec 48

/-- A 16-byte card descriptor, the byte received first at index 0 (R20, R34). -/
abbrev Descriptor := Vector Byte 16

end Sys2Proof
end

