-- ==== Sys2Proof/Machine/Constants.lean ====
section
/-! DEFINITION. The numbers of spec 00_scope.md R6 that are not parameters of a run. -/

namespace Sys2Proof.Machine

/-- PAGE, payload bytes per page transfer. -/
def pageBytes : Nat := 512

/-- CID_LEN and CSD_LEN. -/
def descriptorBytes : Nat := 16

/-- NCR, the most response-poll exchanges (R152). -/
def ncrPolls : Nat := 9

/-- TOKEN_POLLS, the most start-token polls (R231). -/
def tokenPolls : Nat := 255

/-- BUSY_POLLS, the most post-transfer busy polls (R234). -/
def busyPolls : Nat := 65535

/-- R1B_POLLS, the most R1b busy polls (R154). -/
def r1bPolls : Nat := 65535

/-- INIT_BYTES, idle bytes sent before GO_IDLE (R192). -/
def initBytes : Nat := 10

/-- The idle marker, also the byte driven while receiving (R152, R156). -/
def idleByte : Byte := 0xFF

/-- START_TOKEN (R231, R236). -/
def startToken : Byte := 0xFE

/-- CMD_PREFIX, the two prefix bits 0b01 above the command index (R96). -/
def cmdPrefix : Byte := 0x40

/-- IF_COND_ARG (R161). -/
def ifCondArg : Word := 0x000001AA

/-- HCS_ARG, the initialization argument of a version-2 card (R33). -/
def hcsArg : Word := 0x40000000

/-- The argument of SET_BLOCKLEN, PAGE = 512 (R165). -/
def blocklenArg : Word := 0x00000200

/-- scArgScale, the byte-address multiplier of a standard-capacity card (R62). -/
def scArgScale : Word := 512

/-- v1TotalPages (R202). -/
def v1TotalPages : Word := 0

/-- RECORD_LEN (R300). -/
def recordBytes : Nat := 25

/-- GO_IDLE (R97). -/
def idxGoIdle : BitVec 6 := 0
/-- IF_COND (R97). -/
def idxIfCond : BitVec 6 := 8
/-- READ_CSD (R97). -/
def idxReadCsd : BitVec 6 := 9
/-- READ_CID (R97). -/
def idxReadCid : BitVec 6 := 10
/-- SEND_STATUS (R97). -/
def idxSendStatus : BitVec 6 := 13
/-- SET_BLOCKLEN (R97). -/
def idxSetBlocklen : BitVec 6 := 16
/-- READ_BLOCK (R97). -/
def idxReadBlock : BitVec 6 := 17
/-- WRITE_BLOCK (R97). -/
def idxWriteBlock : BitVec 6 := 24
/-- INIT_OP (R97). -/
def idxInitOp : BitVec 6 := 41
/-- APP_PREFIX (R97). -/
def idxAppPrefix : BitVec 6 := 55
/-- READ_OCR (R97). -/
def idxReadOcr : BitVec 6 := 58

end Sys2Proof.Machine
end

