-- ==== Sys2Proof/Machine/Checksum.lean ====
section
/-! DEFINITION. The Checksum Engine (spec 40_checksum.md R130 to R135): CRC-7 and CRC-16, bit-serial, each byte
most-significant bit first. -/

namespace Sys2Proof.Machine

/-- The bit positions of a byte in the order the engine consumes them (R65, R130, R133). -/
def bitOrder : List Nat := [7, 6, 5, 4, 3, 2, 1, 0]

/-- One data bit into a running CRC-7, generator x^7 + x^3 + 1 (R130). -/
def crc7Bit (c : BitVec 7) (b : Bool) : BitVec 7 :=
  let fb := xor (c.getLsbD 6) b
  if fb then (c <<< 1) ^^^ 0x09#7 else c <<< 1

/-- `crc7_step(b, c)` (R130). -/
def crc7Step (b : Byte) (c : BitVec 7) : BitVec 7 :=
  bitOrder.foldl (fun c i => crc7Bit c (b.getLsbD i)) c

/-- `crc7(seq)`, a fresh accumulation from CRC7_INIT = 0 (R131). -/
def crc7 (bs : List Byte) : BitVec 7 := bs.foldl (fun c b => crc7Step b c) 0

/-- One data bit into a running CRC-16, generator x^16 + x^12 + x^5 + 1 (R133). -/
def crc16Bit (c : BitVec 16) (b : Bool) : BitVec 16 :=
  let fb := xor (c.getLsbD 15) b
  if fb then (c <<< 1) ^^^ 0x1021#16 else c <<< 1

/-- `crc16_step(b, c)` (R133). -/
def crc16Step (b : Byte) (c : BitVec 16) : BitVec 16 :=
  bitOrder.foldl (fun c i => crc16Bit c (b.getLsbD i)) c

/-- The running CRC-16 `c` continued over a byte sequence, in sequence order (R134). -/
def crc16From (c : BitVec 16) (bs : List Byte) : BitVec 16 := bs.foldl (fun c b => crc16Step b c) c

/-- `crc16(seq)` from CRC16_INIT = 0 (R134). -/
def crc16 (bs : List Byte) : BitVec 16 := crc16From 0 bs

end Sys2Proof.Machine
end

