-- ==== Sys2Proof/Machine/Operands.lean ====
section
/-! DEFINITION. The operand forms: how multi-byte values are laid out as bytes (spec 20_memory.md R65, R66) and how a
command frame is assembled (spec 30_encoding.md R96; 41_command_framer.md R150). -/

namespace Sys2Proof.Machine

/-- A 32-bit value as four bytes, most-significant first: command arguments and R3/R7 fields (R65). -/
def be4 (v : Word) : List Byte :=
  [v.extractLsb' 24 8, v.extractLsb' 16 8, v.extractLsb' 8 8, v.extractLsb' 0 8]

/-- A 32-bit value as four bytes, least-significant first: NV cursor copies, `LE4` (R66, R309). -/
def le4 (v : Word) : List Byte :=
  [v.extractLsb' 0 8, v.extractLsb' 8 8, v.extractLsb' 16 8, v.extractLsb' 24 8]

/-- `p = (p << 8) | byte` over received bytes, from p = 0 (R153). -/
def assembleBE (bs : List Byte) : Word :=
  bs.foldl (fun p b => (p <<< 8) ||| b.setWidth 32) 0

/-- The value stored in four bytes, least-significant first (R300, R304). -/
def assembleLE (a0 a1 a2 a3 : Byte) : Word :=
  a0.setWidth 32 ||| (a1.setWidth 32 <<< 8) ||| (a2.setWidth 32 <<< 16) ||| (a3.setWidth 32 <<< 24)

/-- The 16-bit value `{hi, lo}` of two bytes (R8). -/
def pair16 (hi lo : Byte) : BitVec 16 := hi ++ lo

/-- The first frame byte, `0x40 | idx` (R96). -/
def frameByte0 (idx : BitVec 6) : Byte := cmdPrefix ||| idx.setWidth 8

/-- F0..F4 of a command frame (R150). -/
def frameHead (idx : BitVec 6) (arg : Word) : List Byte := frameByte0 idx :: be4 arg

/-- The trailer `(crc7 << 1) | 1` (R132). -/
def frameTrailer (c : BitVec 7) : Byte := (c.setWidth 8 <<< 1) ||| 1

/-- The six bytes F0..F5 of a command frame, in transmission order (R96, R150). -/
def frameBytes (idx : BitVec 6) (arg : Word) : List Byte :=
  frameHead idx arg ++ [frameTrailer (crc7 (frameHead idx arg))]

/-- A command frame as one 48-bit value, F0 in bits 47:40 (R96). -/
def frameWord (idx : BitVec 6) (arg : Word) : Frame :=
  frameByte0 idx ++ arg ++ frameTrailer (crc7 (frameHead idx arg))

/-- Sixteen received bytes as a descriptor, the first at index 0 (R240). -/
def descriptorOf (bs : List Byte) : Descriptor :=
  #v[bs.getD 0 0, bs.getD 1 0, bs.getD 2 0, bs.getD 3 0, bs.getD 4 0, bs.getD 5 0, bs.getD 6 0, bs.getD 7 0,
     bs.getD 8 0, bs.getD 9 0, bs.getD 10 0, bs.getD 11 0, bs.getD 12 0, bs.getD 13 0, bs.getD 14 0, bs.getD 15 0]

end Sys2Proof.Machine
end

