-- ==== Sys2Proof/Syntax.lean ====
section
/-! DEFINITION. The instructions: one constructor per row of spec/opcode_table.json, and the two forms in which the
spec spells one (spec 30_encoding.md R90, R96). -/

namespace Sys2Proof

/-- The operations of the block: the five host operations (R91) and the eleven card commands of its framer (R97). -/
inductive Instr where
  /-- INIT, host word 0x0000 (R190). -/
  | init
  /-- READ, host word 0x0100 (R268). -/
  | read
  /-- WRITE, host word 0x0200 | data (R269). -/
  | write (data : Byte)
  /-- ERASE, host word 0x0300 (R272). -/
  | erase
  /-- GET_STATUS, host word 0x0400 (R273). -/
  | getStatus
  /-- GO_IDLE, CMD0 (R160). -/
  | goIdle
  /-- IF_COND, CMD8 (R161). -/
  | ifCond
  /-- APP_PREFIX, CMD55 (R162). -/
  | appPrefix
  /-- INIT_OP, ACMD41, with its argument INIT_ARG (R163). -/
  | initOp (arg : Word)
  /-- READ_OCR, CMD58 (R164). -/
  | readOcr
  /-- SET_BLOCKLEN, CMD16 (R165). -/
  | setBlocklen
  /-- READ_CID, CMD10 (R166). -/
  | readCid
  /-- READ_CSD, CMD9 (R167). -/
  | readCsd
  /-- READ_BLOCK, CMD17, with its argument ADDR(RD_CURSOR) (R168). -/
  | readBlock (arg : Word)
  /-- WRITE_BLOCK, CMD24, with its argument ADDR(WR_CURSOR) (R169). -/
  | writeBlock (arg : Word)
  /-- SEND_STATUS, CMD13 (R170). -/
  | sendStatus
deriving DecidableEq, Repr

/-- The two ways the spec spells an operation: a host word, which the host port takes (R90), or the frame of a card
command, which the framer sends (R96). Only host words reach the block from outside (R342). -/
inductive Request where
  | host (hc : HostWord)
  | frame (f : Frame)
deriving DecidableEq, Repr

/-- The five response shapes (R99). -/
inductive Shape where
  | r1 | r1b | r2 | r3 | r7
deriving DecidableEq, Repr

end Sys2Proof
end

