-- ==== Sys2Proof/WellFormed.lean ====
section
/-! DEFINITION. Which instruction terms the spec gives a word. -/

namespace Sys2Proof

/-- INIT_OP's argument is INIT_ARG, 0 for a version-1 and HCS_ARG for a version-2 card (R33, R163, and the row's `arg`
in spec/opcode_table.json); every other operand takes every value of its width (R95, R97). -/
def Instr.wellFormed : Instr → Bool
  | .init => true
  | .read => true
  | .write _ => true
  | .erase => true
  | .getStatus => true
  | .goIdle => true
  | .ifCond => true
  | .appPrefix => true
  | .initOp arg => arg == 0 || arg == Machine.hcsArg
  | .readOcr => true
  | .setBlocklen => true
  | .readCid => true
  | .readCsd => true
  | .readBlock _ => true
  | .writeBlock _ => true
  | .sendStatus => true

end Sys2Proof
end

