-- ==== Sys2Proof/Decode.lean ====
section
/-! DEFINITION. Decoding (spec 30_encoding.md R92, R94, R96 to R98) and encoding of host words and command frames. -/

namespace Sys2Proof

open Sys2Proof.Machine

/-- Why a word or frame spells no operation. -/
inductive DecodeError where
  /-- A reserved operation code (R92). -/
  | reservedOp
  /-- RSV, or DATA outside WRITE, is not 0 (R92). -/
  | reservedBits
  /-- Frame bits 47:46 are not 0b01 (R96). -/
  | framePrefix
  /-- Frame bit 0 is not the stop bit 1 (R96). -/
  | frameStop
  /-- Frame bits 7:1 are not the CRC-7 of F0..F4 (R96). -/
  | frameCrc
  /-- The command index is none of R97's (R98). -/
  | frameIndex
  /-- The argument is not the one R97 gives the command. -/
  | frameArgument
deriving DecidableEq, Repr

/-- `i`, where `DATA` is 0 as every operation but WRITE asks (R92). -/
def needZeroData (hc : HostWord) (i : Instr) : Except DecodeError Instr :=
  if hc.extractLsb' 0 8 = 0 then .ok i else .error .reservedBits

/-- Decoding a host word, in the order of R94 (the VERSION test is the operation's, R336). -/
def decodeHost (hc : HostWord) : Except DecodeError Instr :=
  if hc.extractLsb' 11 5 ≠ 0 then .error .reservedBits
  else match hc.extractLsb' 8 3 with
    | 0b000#3 => needZeroData hc .init
    | 0b001#3 => needZeroData hc .read
    | 0b010#3 => .ok (.write (hc.extractLsb' 0 8))
    | 0b011#3 => needZeroData hc .erase
    | 0b100#3 => needZeroData hc .getStatus
    | _ => .error .reservedOp

/-- `i`, where the frame's argument is the one R97 gives it. -/
def needArg (want arg : Word) (i : Instr) : Except DecodeError Instr :=
  if arg = want then .ok i else .error .frameArgument

/-- The command that an index and an argument spell (R97). -/
def decodeCommand (idx : BitVec 6) (arg : Word) : Except DecodeError Instr :=
  if idx = idxGoIdle then needArg 0 arg .goIdle
  else if idx = idxIfCond then needArg ifCondArg arg .ifCond
  else if idx = idxAppPrefix then needArg 0 arg .appPrefix
  else if idx = idxInitOp then
    if arg = 0 ∨ arg = hcsArg then .ok (.initOp arg) else .error .frameArgument
  else if idx = idxReadOcr then needArg 0 arg .readOcr
  else if idx = idxSetBlocklen then needArg blocklenArg arg .setBlocklen
  else if idx = idxReadCid then needArg 0 arg .readCid
  else if idx = idxReadCsd then needArg 0 arg .readCsd
  else if idx = idxReadBlock then .ok (.readBlock arg)
  else if idx = idxWriteBlock then .ok (.writeBlock arg)
  else if idx = idxSendStatus then needArg 0 arg .sendStatus
  else .error .frameIndex

/-- Decoding a command frame: its prefix, stop bit and CRC-7 are checked (R96), then its index and argument (R97). -/
def decodeFrame (f : Frame) : Except DecodeError Instr :=
  let idx : BitVec 6 := f.extractLsb' 40 6
  let arg : Word := f.extractLsb' 8 32
  if f.extractLsb' 46 2 ≠ 0b01#2 then .error .framePrefix
  else if f.getLsbD 0 = false then .error .frameStop
  else if f.extractLsb' 1 7 ≠ crc7 (frameHead idx arg) then .error .frameCrc
  else decodeCommand idx arg

/-- Decoding what spells an operation. -/
def decode : Request → Except DecodeError Instr
  | .host hc => decodeHost hc
  | .frame f => decodeFrame f

/-- The request that spells an instruction: host words of R90 and R91, frames of R96 and R97. -/
def encode : Instr → Request
  | .init => .host 0x0000
  | .read => .host 0x0100
  | .write v => .host (0x02#8 ++ v)
  | .erase => .host 0x0300
  | .getStatus => .host 0x0400
  | .goIdle => .frame (frameWord idxGoIdle 0)
  | .ifCond => .frame (frameWord idxIfCond ifCondArg)
  | .appPrefix => .frame (frameWord idxAppPrefix 0)
  | .initOp arg => .frame (frameWord idxInitOp arg)
  | .readOcr => .frame (frameWord idxReadOcr 0)
  | .setBlocklen => .frame (frameWord idxSetBlocklen blocklenArg)
  | .readCid => .frame (frameWord idxReadCid 0)
  | .readCsd => .frame (frameWord idxReadCsd 0)
  | .readBlock arg => .frame (frameWord idxReadBlock arg)
  | .writeBlock arg => .frame (frameWord idxWriteBlock arg)
  | .sendStatus => .frame (frameWord idxSendStatus 0)

/-- The request whose bits are `w`, numbered as spec/opcode_table.json numbers them: a 48-bit row is a command frame,
every other width is read as a host word (log entry 18). -/
def requestOfBits (nbits w : Nat) : Request :=
  if nbits = 48 then .frame (BitVec.ofNat 48 w) else .host (BitVec.ofNat 16 w)

/-- The instruction the decoder reads from an instruction of `nbits` bits (16 or 48) whose bits are `w`. -/
def decodeTableWord (nbits w : Nat) : Option Instr :=
  if nbits = 16 ∨ nbits = 48 then (decode (requestOfBits nbits w)).toOption else none

end Sys2Proof
end

