-- ==== Sys2Proof/Config.lean ====
section
/-! DEFINITION. What the spec leaves to the implementation or to the environment (spec 00_scope.md R6, R11): the
OPEN and Boolean parameters as one record, and the free values as constants with no body. -/

namespace Sys2Proof

/-- The parameters of R6 that a run fixes once. `State` carries one record of them, which no step changes, so that every
statement about all states holds for every choice (log entry 7). -/
structure Params where
  /-- NV_BASE, the NV address of the record's first byte (OPEN, R64). -/
  nvBase : Nat
  /-- How many bits NV_ADDR_BITS has above its least value 5 (OPEN, at least 5, R6). -/
  nvExtraBits : Nat
  /-- Whether a response's tail is clocked after an Ncr timeout (R153). -/
  tailOnTimeout : Bool
  /-- Whether a write close records its outcome in FLAGS.WR_CRC_OK (R239). -/
  writeCrcFlagRecorded : Bool
  /-- Whether a tag mismatch rewrites the whole record (R311). -/
  writeCursorsOnMismatch : Bool
deriving DecidableEq, Repr

/-- NV_ADDR_BITS (R6: OPEN, at least 5). -/
def Params.nvAddrBits (p : Params) : Nat := 5 + p.nvExtraBits

/-- FREE VALUE (R11). The byte the card returns in the exchange with this running number, where the run does not name
it (log entry 5). -/
opaque Config.cardDraw : Nat → Byte

/-- OPEN parameter `csdPages` (R206): the page count of a version-2 card. Nothing is assumed of it (log entry 8). -/
opaque Config.csdPages : Descriptor → Word

/-- OPEN parameter NV_BASE of the machine that `State.reset` describes (R64, log entry 7). -/
opaque Config.nvBase : Nat

/-- OPEN parameter NV_ADDR_BITS, less 5, of the machine that `State.reset` describes (R6, log entry 7). -/
opaque Config.nvExtraBits : Nat

/-- The parameters at `State.reset`: the OPEN ones free, the Booleans at the defaults of R6. -/
def Params.atReset : Params where
  nvBase := Config.nvBase
  nvExtraBits := Config.nvExtraBits
  tailOnTimeout := true
  writeCrcFlagRecorded := false
  writeCursorsOnMismatch := false

end Sys2Proof
end

