-- ==== Sys2Proof/Machine/State.lean ====
section
/-! DEFINITION. The block's state (spec 10_state.md), its interface events (spec 00_scope.md R9, R10), the reasons a
step can stop, and the state after reset (R44). -/

namespace Sys2Proof.Machine

/-- VERSION's 2-bit values (R20). -/
inductive Version where
  /-- 0b00: unusable until INIT succeeds (R22). -/
  | unset
  /-- 0b01. -/
  | v1
  /-- 0b10. -/
  | v2
  /-- 0b11, never written; a launch state holding it faults (R42). -/
  | reserved
deriving DecidableEq, Repr

/-- VERSION's encoding (R20). -/
def Version.bits : Version → BitVec 2
  | .unset => 0b00
  | .v1 => 0b01
  | .v2 => 0b10
  | .reserved => 0b11

/-- CAPACITY (R20): 0 standard, 1 high-capacity. -/
inductive Capacity where
  | sc | hc
deriving DecidableEq, Repr

/-- MODE's 2-bit values (R20, R27). -/
inductive Mode where
  /-- 0b00: no open block. -/
  | idle
  /-- 0b01: a read block is open. -/
  | midRead
  /-- 0b10: a write block is open. -/
  | midWrite
  /-- 0b11, never written; a launch state holding it faults (R42). -/
  | reserved
deriving DecidableEq, Repr

/-- MODE's encoding (R20). -/
def Mode.bits : Mode → BitVec 2
  | .idle => 0b00
  | .midRead => 0b01
  | .midWrite => 0b10
  | .reserved => 0b11

/-- The two clock rates, OPEN tokens (R6, log entry 16). -/
inductive Rate where
  | slow | fast
deriving DecidableEq, Repr

/-- CLK (R38): the last rate set, NONE before the first. -/
inductive Clock where
  | none | at (r : Rate)
deriving DecidableEq, Repr

/-- The delays the block asks for, an OPEN token (R6, R196). -/
inductive Duration where
  | settle
deriving DecidableEq, Repr

/-- SEQ (R21), at the points where a transition of this model begins (R5, log entries 1, 3). -/
inductive Seq where
  /-- READY: between host operations. -/
  | ready
  /-- BUSY(INIT, step 5): the card answered "still idle" and the loop of R197 goes round again. -/
  | initLoop
  /-- BUSY at a SEND: the framer holds this frame and sends it next (R21, R150). No step ends here, so no run from
  reset meets it; it is the position from which a card command runs by itself (DESIGN CHOICE, log entry 3). -/
  | framing (f : Frame)
deriving DecidableEq, Repr

/-- The interface events (R9, R10). -/
inductive Event where
  | select
  | release
  /-- One full-duplex exchange: the byte driven, the byte received. -/
  | xchg (out inp : Byte)
  | setClock (r : Rate)
  | delay (d : Duration)
  /-- One byte read from the NV store: its address and value. -/
  | nvRead (a : Nat) (v : Byte)
  /-- One byte written to the NV store: its address and value. -/
  | nvWrite (a : Nat) (v : Byte)
deriving DecidableEq, Repr

/-- The stored fields of FLAGS (R35). READY, bit 6, is derived from VERSION and not stored. -/
structure Flags where
  /-- Bit 0, RD_CRC_OK. -/
  rdCrcOk : Bool
  /-- Bit 1, WR_CRC_OK. -/
  wrCrcOk : Bool
  /-- Bit 2, CMD_TIMEOUT. -/
  cmdTimeout : Bool
  /-- Bit 3, TOKEN_TIMEOUT. -/
  tokenTimeout : Bool
  /-- Bit 4, BUSY_TIMEOUT. -/
  busyTimeout : Bool
  /-- Bit 5, WR_REJECT. -/
  wrReject : Bool
  /-- Bit 7, RECORD_CORRUPT. -/
  recordCorrupt : Bool
  /-- Bit 8, ID_MISMATCH. -/
  idMismatch : Bool
  /-- Bits 11:9, reserved: no rule writes them, and a launch state holding any faults (93 I16). -/
  reservedBits : BitVec 3
  /-- Bits 15:12, ABORT_CODE (R332). -/
  abortCode : BitVec 4
deriving DecidableEq, Repr

/-- Every stored field 0 (R36, R44). -/
def Flags.zero : Flags where
  rdCrcOk := false
  wrCrcOk := false
  cmdTimeout := false
  tokenTimeout := false
  busyTimeout := false
  wrReject := false
  recordCorrupt := false
  idMismatch := false
  reservedBits := 0
  abortCode := 0

/-- A power loss still to come (R345, R360; log entry 10). -/
structure PowerCut where
  /-- How many more interface events happen first. -/
  after : Nat
  /-- What the NV byte holds whose write it cuts (R70: any value). -/
  cut : Byte
deriving DecidableEq, Repr

/-- A record region or NV store as address and byte pairs, in the canonical form of Machine/Memory.lean. -/
abbrev Memory := List Host.Cell

/-- The machine's state. The registers are those of R20 under the names there; then the NV store (R39), the run's
observation (R10), and the model's own fields for what the outside world presents. -/
structure State where
  /-- VERSION (R22). -/
  version : Version
  /-- CAPACITY (R23). -/
  capacity : Capacity
  /-- TOTAL_PAGES (R24). -/
  totalPages : Word
  /-- RD_CURSOR (R25). -/
  rdCursor : Word
  /-- WR_CURSOR (R25). -/
  wrCursor : Word
  /-- OFFSET (R26). -/
  offset : BitVec 10
  /-- MODE (R27). -/
  mode : Mode
  /-- CRC16 (R28). -/
  crc16 : BitVec 16
  /-- CRC7 (R29). -/
  crc7 : BitVec 7
  /-- CMD_IDX (R30). -/
  cmdIdx : BitVec 6
  /-- CMD_ARG (R30). -/
  cmdArg : Word
  /-- LAST_R1 (R31). -/
  lastR1 : Byte
  /-- RESP_B2 (R32). -/
  respB2 : Byte
  /-- RESP_PAYLOAD (R32). -/
  respPayload : Word
  /-- INIT_ARG (R33). -/
  initArg : Word
  /-- CID (R34). -/
  cid : Descriptor
  /-- CSD (R34). -/
  csd : Descriptor
  /-- Whether CID has been written since reset; reading it before faults (R34, log entry 9). -/
  cidWritten : Bool
  /-- Whether CSD has been written since reset (R34). -/
  csdWritten : Bool
  /-- FLAGS, its stored fields (R35). -/
  flags : Flags
  /-- SEL (R38): true = card-select asserted. -/
  sel : Bool
  /-- CLK (R38). -/
  clk : Clock
  /-- SEQ (R21). -/
  seq : Seq
  /-- The NV store (R39). -/
  nv : Memory
  /-- The result words presented so far, oldest first; the last is RES (R40, R93). -/
  results : List HostWord
  /-- The interface events so far, oldest first (R10). -/
  events : List Event
  /-- MODEL: the words presented at the host port and not yet taken, oldest first (R90, log entry 2). The host port is
  the only control interface (R342). -/
  inbox : List HostWord
  /-- MODEL: the card's next replies, where the run names them (log entry 5). -/
  card : List Byte
  /-- MODEL: how many exchanges have been made; numbers the free value Config.cardDraw (log entry 5). -/
  draws : Nat
  /-- MODEL: a power loss still to come (log entry 10). -/
  power : Option PowerCut
  /-- MODEL: the run's parameters, changed by no step (R6, log entry 7). -/
  cfg : Params
deriving DecidableEq, Repr

/-- Why the machine stops with a fault (R337). All are SAFE: the model stops where the hardware's rules give no state
to go on from, and nothing is claimed of what it does there. -/
inductive Fault where
  /-- Raised by every operation in a state with MODE = 0b11 (R42). Safe. -/
  | launchMode
  /-- Raised by every operation in a state with VERSION = 0b11 (R42). Safe. -/
  | launchVersion
  /-- Raised by every operation in a state with OFFSET > 512 (R42). Safe. -/
  | launchOffset
  /-- Raised by every operation in a state with an open block and SEL = 0 (R42). Safe. -/
  | launchDeselected
  /-- Raised by every operation in a state with an open block and VERSION = UNSET (R42). Safe. -/
  | launchUninitialized
  /-- Raised by every operation and step in a state with SEQ = BUSY(INIT, step 5) and registers that steps 1 to 4 of INIT
  cannot leave, such as VERSION = UNSET or an open block (R191 to R196, R337). Safe. -/
  | launchLoop
  /-- Raised by every operation in a state with a reserved FLAGS bit or abort code set (93 I16). Safe. -/
  | launchFlags
  /-- Raised by PERSIST where CID has not been written since reset (R34, R337). Safe. -/
  | unwrittenDescriptor
  /-- Raised by every operation executed while SEQ is BUSY, which `step` never does (R12, R337). Safe. -/
  | notReady
  /-- Raised by a card command run by itself while a page is open, which no rule frames (R74, R337). Safe. -/
  | commandInOpenPage
deriving DecidableEq, Repr

/-- Why the machine gives a request no meaning (R336). All are SAFE: no event, no register change, nothing claimed. -/
inductive Refusal where
  /-- Raised by `exec` for an instruction without a meaning; no arm does. Safe. -/
  | notModelled (mnemonic : String)
  /-- Raised by decoding a host word with OP 0b101..0b111 (R92, R336). Safe. -/
  | reservedOp
  /-- Raised by decoding a host word with RSV, or DATA outside WRITE, not 0 (R92, R336). Safe. -/
  | reservedBits
  /-- Raised by READ, WRITE, ERASE and GET_STATUS while VERSION = UNSET (R336). Safe. -/
  | notInitialized
  /-- Raised by decoding a frame the block never emits (R96 to R98). Safe. -/
  | frameNotEmitted
  /-- Raised by READ_BLOCK and WRITE_BLOCK with an argument that is no page's `ADDR(p)`: a misaligned card access,
  which cannot be formed (R68, log entry 17). Safe. -/
  | misalignedArgument
deriving DecidableEq, Repr

/-- The outcome of one step of this machine. -/
abbrev Outcome := Host.Outcome State Fault Refusal

/-- The machine right after power-on reset (R44, R360): nothing presented yet, and an NV store with nothing listed
(log entry 6). -/
def State.reset : State where
  version := .unset
  capacity := .sc
  totalPages := 0
  rdCursor := 0
  wrCursor := 0
  offset := 0
  mode := .idle
  crc16 := 0
  crc7 := 0
  cmdIdx := 0
  cmdArg := 0
  lastR1 := 0
  respB2 := 0
  respPayload := 0
  initArg := 0
  cid := Vector.replicate 16 0
  csd := Vector.replicate 16 0
  cidWritten := false
  csdWritten := false
  flags := Flags.zero
  sel := false
  clk := .none
  seq := .ready
  nv := []
  results := []
  events := []
  inbox := []
  card := []
  draws := 0
  power := none
  cfg := Params.atReset

end Sys2Proof.Machine
end

