-- ==== Sys2Proof/Machine/Flags.lean ====
section
/-! DEFINITION. Status words and the tests on received bytes: FLAGS (spec 10_state.md R35), the R1 accessors (R31), the
R3 and R7 fields (R32), the byte predicates (spec 41_command_framer.md R156, 30_encoding.md R103) and the abort codes
(spec 60_exceptions.md R332). -/

namespace Sys2Proof.Machine

/-- FLAGS.READY (R35): not stored, always VERSION ≠ UNSET. -/
def State.readyFlag (s : State) : Bool := s.version != .unset

/-- FLAGS as the host reads it (R35). -/
def State.flagsWord (s : State) : BitVec 16 :=
  s.flags.abortCode ++ s.flags.reservedBits
    ++ BitVec.ofBool s.flags.idMismatch ++ BitVec.ofBool s.flags.recordCorrupt
    ++ BitVec.ofBool s.readyFlag ++ BitVec.ofBool s.flags.wrReject
    ++ BitVec.ofBool s.flags.busyTimeout ++ BitVec.ofBool s.flags.tokenTimeout
    ++ BitVec.ofBool s.flags.cmdTimeout ++ BitVec.ofBool s.flags.wrCrcOk
    ++ BitVec.ofBool s.flags.rdCrcOk

/-- RES, the result word of the last operation (R40, R93). -/
def State.res (s : State) : Option HostWord := s.results.getLast?

/-- `r1_idle`, bit 0 of an R1 byte (R31). -/
def r1Idle (r : Byte) : Bool := r.getLsbD 0
/-- `r1_erase_reset` (R31). -/
def r1EraseReset (r : Byte) : Bool := r.getLsbD 1
/-- `r1_illegal_cmd` (R31). -/
def r1IllegalCmd (r : Byte) : Bool := r.getLsbD 2
/-- `r1_crc_err` (R31). -/
def r1CrcErr (r : Byte) : Bool := r.getLsbD 3
/-- `r1_erase_seq_err` (R31). -/
def r1EraseSeqErr (r : Byte) : Bool := r.getLsbD 4
/-- `r1_addr_err` (R31). -/
def r1AddrErr (r : Byte) : Bool := r.getLsbD 5
/-- `r1_param_err` (R31). -/
def r1ParamErr (r : Byte) : Bool := r.getLsbD 6
/-- `r1_start`, 0 in a valid R1 (R31). -/
def r1Start (r : Byte) : Bool := r.getLsbD 7
/-- `r1_errors(r) = r[6:2]` (R31). -/
def r1Errors (r : Byte) : BitVec 5 := r.extractLsb' 2 5

/-- `ocr_ccs`, the capacity-class bit of an R3 field (R32). -/
def ocrCcs (p : Word) : Bool := p.getLsbD 30
/-- `r7_vhs`, the echoed voltage window of an R7 field (R32). -/
def r7Vhs (p : Word) : BitVec 4 := p.extractLsb' 8 4
/-- `r7_pattern`, the echoed check pattern of an R7 field (R32). -/
def r7Pattern (p : Word) : Byte := p.extractLsb' 0 8

/-- A response byte is accepted when it is not the idle marker (R156). -/
def acceptByte (r : Byte) : Bool := r != idleByte

/-- The card is not busy when the byte received is not 0x00 (R156). -/
def readyByte (b : Byte) : Bool := b != 0x00

/-- The start token (R231). -/
def isToken (b : Byte) : Bool := b == startToken

/-- `(d & DRESP_MASK) == DRESP_ACCEPT` (R103). -/
def dataAccepted (d : Byte) : Bool := (d &&& 0x1F) == 0x05

/-- The outcome of step 2 on IF_COND's R1 (R194): version 1, version 2, or neither. -/
def classifyR1 (r : Byte) : Option Version :=
  if r1Start r = false ∧ r1Errors r = 0b00001 then some .v1
  else if r1Start r = false ∧ r1Errors r = 0b00000 ∧ r1Idle r = true then some .v2
  else none

/-- Step 3's echo check: VHS and CHECK_PATTERN, bits 31:12 unchecked (R195). -/
def echoOk (p : Word) : Bool := r7Vhs p == 0x1 && r7Pattern p == 0xAA

/-- The reasons INIT aborts (R332). -/
inductive AbortCode where
  | goIdleFail | ifCondFail | echoMismatch | initOpFail | ocrFail | blocklenFail | cidFail | csdFail
deriving DecidableEq, Repr

/-- The code in FLAGS.ABORT_CODE (R332). -/
def abortBits : AbortCode → BitVec 4
  | .goIdleFail => 1
  | .ifCondFail => 2
  | .echoMismatch => 3
  | .initOpFail => 4
  | .ocrFail => 5
  | .blocklenFail => 6
  | .cidFail => 7
  | .csdFail => 8

/-- The registers that steps 1 to 4 of INIT set and step 5 keeps are as those steps leave them: VERSION known with its
INIT_ARG, the slow start over, all else as step 1 resets it (R191, R194, R196, R197). -/
def loopRegisters (s : State) : Bool :=
  (s.version == .v1 && s.initArg == 0 || s.version == .v2 && s.initArg == hcsArg) &&
    s.capacity == .sc && s.totalPages == 0 && s.rdCursor == 0 && s.wrCursor == 0 && s.offset == 0 && s.mode == .idle &&
    s.crc16 == 0 && s.flags == Flags.zero && !s.sel && s.clk == .at .fast

/-- A launch state that no rule produces or gives a meaning (R42, R337, 93 I16): the fault it stops with. DEDUCED from
R337: SEQ = BUSY(INIT, step 5) with registers that steps 1 to 4 of INIT cannot leave is such a state. DESIGN CHOICE (log
entry 12): between host operations R42's list is read as the whole; other states that no rule produces, such as MODE =
IDLE with OFFSET other than 0, or an open block with OFFSET 0 or 512 (R26, R275), are not in it and run by the rules. -/
def launchFault (s : State) : Option Fault :=
  if s.mode = .reserved then some .launchMode
  else if s.version = .reserved then some .launchVersion
  else if 512 < s.offset.toNat then some .launchOffset
  else if s.mode ≠ .idle ∧ s.sel = false then some .launchDeselected
  else if s.mode ≠ .idle ∧ s.version = .unset then some .launchUninitialized
  else if s.seq = .initLoop ∧ loopRegisters s = false then some .launchLoop
  else if s.flags.reservedBits ≠ 0 ∨ 8 < s.flags.abortCode.toNat then some .launchFlags
  else none

end Sys2Proof.Machine
end

