-- ==== Sys2Proof/Machine/Memory.lean ====
section
/-! DEFINITION. The NV byte store as a list of cells in one canonical form (spec 10_state.md R39): addresses strictly
rising, no cell equal to what an unlisted address reads as. -/

namespace Sys2Proof.Machine

/-- What an NV address that no cell lists reads as: the erased byte 0xFF (DESIGN CHOICE, log entry 6). -/
def nvUnlisted : Byte := 0xFF

/-- One byte read. A read has no side effect (R71). -/
def Memory.read : Memory → Nat → Byte
  | [], _ => nvUnlisted
  | (b, v) :: m, a => if b = a then v else Memory.read m a

/-- One byte written, keeping the canonical form. -/
def Memory.write : Memory → Nat → Byte → Memory
  | [], a, v => if v = nvUnlisted then [] else [(a, v)]
  | (b, w) :: m, a, v =>
    if a < b then (if v = nvUnlisted then (b, w) :: m else (a, v) :: (b, w) :: m)
    else if a = b then (if v = nvUnlisted then m else (a, v) :: m)
    else (b, w) :: Memory.write m a v

/-- The canonical form, for cells at addresses from `lo` on. -/
def Memory.wfFrom : Nat → Memory → Bool
  | _, [] => true
  | lo, (a, v) :: m => decide (lo ≤ a) && (v != nvUnlisted) && Memory.wfFrom (a + 1) m

/-- The canonical form: addresses strictly rising, no cell equal to what an unlisted address reads as. -/
def Memory.wf (m : Memory) : Bool := Memory.wfFrom 0 m

end Sys2Proof.Machine
end

