-- ==== Sys2Proof/Machine/Ops.lean ====
section
/-! DEFINITION. The named operations: the primitives of spec 00_scope.md R9, the bounded poll, NV record access (spec
20_memory.md R64), INIT's abort path (spec 60_exceptions.md R333) and the guards an operation passes before it runs. -/

namespace Sys2Proof.Machine

/-- Append one interface event (R10). -/
def emit (e : Event) (s : State) : State := { s with events := s.events ++ [e] }

/-- `Select()` (R9, R38). -/
def select (s : State) : State := { emit .select s with sel := true }

/-- `Release()` (R9, R38). -/
def release (s : State) : State := { emit .release s with sel := false }

/-- `SetClock(r)` (R9, R38). -/
def setClock (r : Rate) (s : State) : State := { emit (.setClock r) s with clk := .at r }

/-- `Delay(d)` (R9, R341): an event with no modelled duration. -/
def delay (d : Duration) (s : State) : State := emit (.delay d) s

/-- The byte the card returns in the next exchange: the run's next named reply, or a free draw (R11, log entry 5). -/
def cardReply (s : State) : Byte :=
  match s.card with
  | b :: _ => b
  | [] => Config.cardDraw s.draws

/-- `Xchg(o)` (R9): the byte received, and the state after. -/
def xchg (o : Byte) (s : State) : Byte × State :=
  let i := cardReply s
  (i, emit (.xchg o i) { s with card := s.card.tail, draws := s.draws + 1 })

/-- `Xchg(o)` whose received byte is ignored (R151). -/
def sendByte (o : Byte) (s : State) : State := (xchg o s).2

/-- A byte sequence sent in index order, the received bytes ignored (R8, R151). -/
def sendBytes (os : List Byte) (s : State) : State := os.foldl (fun s o => sendByte o s) s

/-- `n` bytes received in order, 0xFF driven throughout (R101). -/
def recvBytes : Nat → State → List Byte × State
  | 0, s => ([], s)
  | n + 1, s =>
    let x := xchg idleByte s
    let y := recvBytes n x.2
    (x.1 :: y.1, y.2)

/-- How a bounded poll ended: the byte last received, whether it was the awaited one, and the state after. -/
structure Polled where
  last : Byte
  hit : Bool
  st : State

/-- A bounded poll (R152, R154, R231, R234): at most `n` exchanges of 0xFF, ending at the first byte `stop` accepts;
`r` is what `last` is if there is no exchange. -/
def poll (stop : Byte → Bool) : Nat → Byte → State → Polled
  | 0, r, s => ⟨r, false, s⟩
  | n + 1, _, s =>
    let x := xchg idleByte s
    if stop x.1 then ⟨x.1, true, x.2⟩ else poll stop n x.1 x.2

/-- The NV address of record byte `i` (R64). -/
def nvAddr (p : Params) (i : Nat) : Nat := (p.nvBase + i) % 2 ^ p.nvAddrBits

/-- `NV[i]` read: `MemRead(NV, a, 1)` (R9). -/
def nvReadByte (i : Nat) (s : State) : Byte × State :=
  let a := nvAddr s.cfg i
  let v := Memory.read s.nv a
  (v, emit (.nvRead a v) s)

/-- `NV[i] <- v`: `MemWrite(NV, a, 1, v)` (R9). -/
def nvWriteByte (i : Nat) (v : Byte) (s : State) : State :=
  let a := nvAddr s.cfg i
  emit (.nvWrite a v) { s with nv := Memory.write s.nv a v }

/-- Record bytes `i`, `i + 1`, … read in ascending order, `n` of them (R303). -/
def nvReadFrom : Nat → Nat → State → List Byte × State
  | _, 0, s => ([], s)
  | i, n + 1, s =>
    let x := nvReadByte i s
    let y := nvReadFrom (i + 1) n x.2
    (x.1 :: y.1, y.2)

/-- The bytes `img[i]` of a record image written in the order given (R309). -/
def nvWriteImage (order : List Nat) (img : List Byte) (s : State) : State :=
  order.foldl (fun s i => nvWriteByte i (img.getD i 0) s) s

/-- A host operation returns: its result word is presented and SEQ is READY (R21, R93). -/
def returnWord (w : HostWord) (s : State) : State := { s with results := s.results ++ [w], seq := .ready }

/-- TAKING AN EXCEPTION, as far as the block has any: `raise Abort(code)` ends INIT by this one path (R333). There is
no return from it other than a new INIT (R339, R361). -/
def abort (c : AbortCode) (s : State) : State :=
  let s := release s
  returnWord 0x0000 { s with version := .unset, flags := { s.flags with abortCode := abortBits c } }

/-- An operation runs in a state the rules produce, with SEQ = READY (R12, R42). -/
def whenLaunched (s : State) (run : Outcome) : Outcome :=
  match launchFault s with
  | some f => .fault f
  | none => if s.seq = .ready then run else .fault .notReady

/-- READ, WRITE, ERASE and GET_STATUS run only once INIT has succeeded (R94, R336). -/
def whenUsable (s : State) (run : Outcome) : Outcome :=
  whenLaunched s (if s.version = .unset then .refused .notInitialized else run)

/-- `ADDR(p)` (R62): the page index itself on a high-capacity card, its byte address modulo 2^32 on a standard one. -/
def pageArg (c : Capacity) (p : Word) : Word :=
  match c with
  | .hc => p
  | .sc => p * scArgScale

/-- Whether an argument is some page's `ADDR(p)` (R68): on a standard card a multiple of 512, else any page index. -/
def isPageArg (c : Capacity) (arg : Word) : Bool :=
  match c with
  | .hc => true
  | .sc => arg.toNat % scArgScale.toNat == 0

/-- A block command's argument is a page's: no misaligned card access can be formed (R68). -/
def whenPageArg (arg : Word) (s : State) (run : Outcome) : Outcome :=
  if isPageArg s.capacity arg then run else .refused .misalignedArgument

/-- A card command run by itself runs only while no page is open (R74, log entry 4). DESIGN CHOICE (log entry 22): it
runs whatever VERSION, SEL and CLK are and whatever command went before it, where the rules issue each command at one
place of a host operation only (R97, R160 to R170) and R337 allows a fault elsewhere. -/
def whenNoPageOpen (s : State) (run : Outcome) : Outcome :=
  whenLaunched s (if s.mode = .idle then run else .fault .commandInOpenPage)

/-- The outcome of an operation that may have stopped on the read of an unwritten descriptor (R337). -/
def settle (r : Except Fault State) : Outcome :=
  match r with
  | .ok s => .next s
  | .error f => .fault f

end Sys2Proof.Machine
end

