-- ==== Sys2Proof/Machine/Framer.lean ====
section
/-! DEFINITION. The command/response framer (spec 41_command_framer.md) and the meanings of the bare card commands that
are one SEND each. -/

namespace Sys2Proof.Machine

/-- Frame build and transmission (R150). -/
def sendFrame (idx : BitVec 6) (arg : Word) (s : State) : State :=
  let s := { s with cmdIdx := idx, cmdArg := arg, crc7 := crc7 (frameHead idx arg) }
  let s := select s
  let s := sendBytes (frameHead idx arg) s
  sendByte (frameTrailer s.crc7) s

/-- The Ncr wait, which yields R1 (R152). FLAGS.CMD_TIMEOUT then says whether it saw no response byte. -/
def ncrWait (s : State) : State :=
  let p := poll acceptByte ncrPolls idleByte s
  { p.st with lastR1 := p.last, flags := { p.st.flags with cmdTimeout := !p.hit } }

/-- A busy poll of at most `n` exchanges, recorded in FLAGS.BUSY_TIMEOUT (R154, R234). -/
def busyWait (n : Nat) (s : State) : State :=
  let p := poll readyByte n idleByte s
  { p.st with flags := { p.st.flags with busyTimeout := !p.hit } }

/-- The response tail of a shape (R153, R154). -/
def responseTail (shape : Shape) (s : State) : State :=
  match shape with
  | .r1 => s
  | .r1b => busyWait r1bPolls s
  | .r2 =>
    let x := xchg idleByte s
    { x.2 with respB2 := x.1 }
  | .r3 | .r7 =>
    let y := recvBytes 4 s
    { y.2 with respPayload := assembleBE y.1 }

/-- `SEND(idx, arg, shape, keep)` (R150 to R155, R158). -/
def send (idx : BitVec 6) (arg : Word) (shape : Shape) (keep : Bool) (s : State) : State :=
  let s := ncrWait (sendFrame idx arg s)
  let s := if !s.flags.cmdTimeout || s.cfg.tailOnTimeout then responseTail shape s else s
  if keep then s else release s

/-- A tagged response, one decoding per shape (R157). -/
inductive Response where
  | r1 (r1 : Byte)
  | r1b (r1 : Byte)
  | r2 (r1 b2 : Byte)
  | r3 (r1 : Byte) (ocr : Word)
  | r7 (r1 : Byte) (echo : Word)
deriving DecidableEq, Repr

/-- What SEND returns for the shape it was asked for, read from the registers it has just written (R155, R157). -/
def response (shape : Shape) (s : State) : Response :=
  match shape with
  | .r1 => .r1 s.lastR1
  | .r1b => .r1b s.lastR1
  | .r2 => .r2 s.lastR1 s.respB2
  | .r3 => .r3 s.lastR1 s.respPayload
  | .r7 => .r7 s.lastR1 s.respPayload

/-- GO_IDLE (R160). -/
def execGoIdle (s : State) : Outcome := whenNoPageOpen s (.next (send idxGoIdle 0 .r1 false s))

/-- IF_COND (R161). -/
def execIfCond (s : State) : Outcome := whenNoPageOpen s (.next (send idxIfCond ifCondArg .r7 false s))

/-- APP_PREFIX (R162). -/
def execAppPrefix (s : State) : Outcome := whenNoPageOpen s (.next (send idxAppPrefix 0 .r1 false s))

/-- INIT_OP (R163). DESIGN CHOICE (log entry 17): run by itself, it sends its own argument, which is not compared with
INIT_ARG. -/
def execInitOp (arg : Word) (s : State) : Outcome := whenNoPageOpen s (.next (send idxInitOp arg .r1 false s))

/-- READ_OCR (R164). -/
def execReadOcr (s : State) : Outcome := whenNoPageOpen s (.next (send idxReadOcr 0 .r3 false s))

/-- SET_BLOCKLEN (R165). -/
def execSetBlocklen (s : State) : Outcome := whenNoPageOpen s (.next (send idxSetBlocklen blocklenArg .r1 false s))

/-- READ_BLOCK, the command alone: the select line stays asserted (R155, R168). Its argument is a page's `ADDR(p)`
(R62, R68). DESIGN CHOICE (log entry 17): any page's, not the read cursor's alone. -/
def execReadBlock (arg : Word) (s : State) : Outcome :=
  whenNoPageOpen s (whenPageArg arg s (.next (send idxReadBlock arg .r1 true s)))

/-- WRITE_BLOCK, the command alone: the select line stays asserted (R155, R169). Its argument is a page's `ADDR(p)`
(R62, R68). DESIGN CHOICE (log entry 17): any page's, not the write cursor's alone. -/
def execWriteBlock (arg : Word) (s : State) : Outcome :=
  whenNoPageOpen s (whenPageArg arg s (.next (send idxWriteBlock arg .r1 true s)))

/-- SEND_STATUS (R170). -/
def execSendStatus (s : State) : Outcome := whenNoPageOpen s (.next (send idxSendStatus 0 .r2 false s))

end Sys2Proof.Machine
end

