-- ==== Sys2Proof/Machine/Block.lean ====
section
/-! DEFINITION. Block framing and CRC-16 checking (spec 43_block_framing.md), the descriptor read, and the meanings of
the two bare card commands that read a descriptor. -/

namespace Sys2Proof.Machine

/-- `TOKEN_WAIT()` (R231). -/
def tokenWait (s : State) : State :=
  let p := poll isToken tokenPolls idleByte s
  { p.st with flags := { p.st.flags with tokenTimeout := !p.hit } }

/-- `READ_BLOCK_OPEN(idx, arg)` (R230): the transfer proceeds whatever R1 and the token wait gave. -/
def readBlockOpen (idx : BitVec 6) (arg : Word) (s : State) : State :=
  let s := tokenWait (send idx arg .r1 true s)
  { s with crc16 := 0 }

/-- `RX_PAYLOAD()` (R232): the byte, and the state after. -/
def rxPayload (s : State) : Byte × State :=
  let x := xchg idleByte s
  (x.1, { x.2 with crc16 := crc16Step x.1 x.2.crc16 })

/-- `n` payload bytes in order (R240). -/
def rxPayloads : Nat → State → List Byte × State
  | 0, s => ([], s)
  | n + 1, s =>
    let x := rxPayload s
    let y := rxPayloads n x.2
    (x.1 :: y.1, y.2)

/-- `READ_BLOCK_CLOSE()` (R233, R234): the CRC-16 check, the filler, the busy poll and the release. A mismatch sets
FLAGS.RD_CRC_OK to 0 and does nothing else (R235). -/
def readBlockClose (s : State) : State :=
  let hi := xchg idleByte s
  let lo := xchg idleByte hi.2
  let s := { lo.2 with flags := { lo.2.flags with rdCrcOk := pair16 hi.1 lo.1 == lo.2.crc16 } }
  release (busyWait busyPolls (sendByte idleByte s))

/-- `WRITE_BLOCK_OPEN(arg)` (R236). -/
def writeBlockOpen (arg : Word) (s : State) : State :=
  let s := sendByte startToken (send idxWriteBlock arg .r1 true s)
  { s with crc16 := 0 }

/-- `TX_PAYLOAD(v)` (R237). -/
def txPayload (v : Byte) (s : State) : State :=
  let s := sendByte v s
  { s with crc16 := crc16Step v s.crc16 }

/-- `WR_CRC_FLAG(acc)` (R239): written only where the run records it (R37). -/
def wrCrcFlag (acc : Bool) (s : State) : State :=
  if s.cfg.writeCrcFlagRecorded then { s with flags := { s.flags with wrCrcOk := acc } } else s

/-- `WRITE_BLOCK_CLOSE()` (R238): whether the data response is accepted, and the state after. No busy poll follows
(R241). -/
def writeBlockClose (s : State) : Bool × State :=
  let s := sendByte (s.crc16.extractLsb' 0 8) (sendByte (s.crc16.extractLsb' 8 8) s)
  let d := xchg idleByte s
  let acc := dataAccepted d.1
  let s := { d.2 with flags := { d.2.flags with wrReject := !acc } }
  (acc, release (wrCrcFlag acc s))

/-- The data block of a descriptor command, up to its close: 16 payload bytes (R240). -/
def readDescriptorBytes (idx : BitVec 6) (s : State) : List Byte × State :=
  let y := rxPayloads descriptorBytes (readBlockOpen idx 0 s)
  (y.1, readBlockClose y.2)

/-- `READ_DESCRIPTOR(10, CID)` (R240). -/
def readCidDescriptor (s : State) : State :=
  let y := readDescriptorBytes idxReadCid s
  { y.2 with cid := descriptorOf y.1, cidWritten := true }

/-- `READ_DESCRIPTOR(9, CSD)` (R240). -/
def readCsdDescriptor (s : State) : State :=
  let y := readDescriptorBytes idxReadCsd s
  { y.2 with csd := descriptorOf y.1, csdWritten := true }

/-- What READ_DESCRIPTOR returns: false exactly when the token wait timed out and R1 was not 0x00 (R201, R240). -/
def descriptorOk (s : State) : Bool := !(s.flags.tokenTimeout && s.lastR1 != 0x00)

/-- READ_CID, the command and its 16-byte data block (R166, log entry 21). -/
def execReadCid (s : State) : Outcome := whenNoPageOpen s (.next (readCidDescriptor s))

/-- READ_CSD, the command and its 16-byte data block (R167, log entry 21). -/
def execReadCsd (s : State) : Outcome := whenNoPageOpen s (.next (readCsdDescriptor s))

end Sys2Proof.Machine
end

