-- ==== Sys2Proof/Machine/Record.lean ====
section
/-! DEFINITION. The Position Record Manager (spec 45_position_record.md): layout, checksum, RECOVER and PERSIST. -/

namespace Sys2Proof.Machine

/-- `CHK(v)`, the CRC-7 of a cursor value's four stored bytes in address order (R302). -/
def chk (v : Word) : BitVec 7 := crc7 (le4 v)

/-- The stored checksum byte, `0b0 ++ CHK(v)` (R302). -/
def chkByte (v : Word) : Byte := (chk v).setWidth 8

/-- `IDTAG()` of a card-identification block (R301). -/
def idTag (cid : Descriptor) : List Byte := [cid[0], cid[9], cid[10], cid[11], cid[12]]

/-- One copy of a cursor as stored: its checksum byte, then its four bytes (R300). -/
def copyBytes (v : Word) : List Byte := chkByte v :: le4 v

/-- The 25-byte record image of a tag and two cursors (R300, R309). -/
def recordImage (tag : List Byte) (rd wr : Word) : List Byte :=
  tag ++ copyBytes rd ++ copyBytes rd ++ copyBytes wr ++ copyBytes wr

/-- PERSIST_ORDER (R309): the tag, then for each cursor copy 2 before copy 1. -/
def persistOrder : List Nat :=
  [0, 1, 2, 3, 4, 10, 11, 12, 13, 14, 5, 6, 7, 8, 9, 20, 21, 22, 23, 24, 15, 16, 17, 18, 19]

/-- The body of PERSIST for a given tag (R309). CRC7 is left at the last checksum computed (log entry 11). -/
def persistWith (tag : List Byte) (s : State) : State :=
  nvWriteImage persistOrder (recordImage tag s.rdCursor s.wrCursor) { s with crc7 := chk s.wrCursor }

/-- `PERSIST()` (R309). Its IDTAG() reads CID, and the spec has a model fault where that is read before it is written
(R34, R337, 93 I15). -/
def persist (s : State) : Except Fault State :=
  if s.cidWritten then .ok (persistWith (idTag s.cid) s) else .error .unwrittenDescriptor

/-- One stored copy: its value, and whether its checksum byte is that value's (R304). -/
structure Copy where
  value : Word
  valid : Bool
deriving DecidableEq, Repr

/-- The copy stored in record bytes `i` to `i + 4` (R304). -/
def copyAt (rec : List Byte) (i : Nat) : Copy :=
  let v := assembleLE (rec.getD (i + 1) 0) (rec.getD (i + 2) 0) (rec.getD (i + 3) 0) (rec.getD (i + 4) 0)
  ⟨v, rec.getD i 0 == chkByte v⟩

/-- `RESOLVE(g)` on a pair of copies, A and B (R305): the value, and whether any copy was valid. -/
def resolve (a b : Copy) : Word × Bool :=
  if a.valid ∧ b.valid ∧ a.value = b.value then (a.value, true)
  else if a.valid ∧ b.valid ∧ b.value = a.value + 1 then (b.value, true)
  else if a.valid ∧ b.valid then (a.value, true)
  else if a.valid then (a.value, true)
  else if b.valid then (b.value, true)
  else (0, false)

/-- The read cursor that record bytes 5 to 14 give (R303, R304). -/
def resolveRead (rec : List Byte) : Word × Bool := resolve (copyAt rec 5) (copyAt rec 10)

/-- The write cursor that record bytes 15 to 24 give (R303, R304). -/
def resolveWrite (rec : List Byte) : Word × Bool := resolve (copyAt rec 15) (copyAt rec 20)

/-- `CLAMP(c)` (R307). -/
def clamp (totalPages c : Word) : Word := if c.toNat < totalPages.toNat then c else 0

/-- RECOVER on a stored tag that is not the card's (R303, R311): the cursors stay 0, and the tag or the whole record
is written. -/
def recoverMismatch (tag : List Byte) (s : State) : State :=
  let s := { s with flags := { s.flags with idMismatch := true, recordCorrupt := false } }
  if s.cfg.writeCursorsOnMismatch then persistWith tag s
  else nvWriteImage [0, 1, 2, 3, 4] tag s

/-- RECOVER on the card's own record (R303, R305 to R307). CRC7 is left at the last checksum computed (log entry 11). -/
def recoverMatch (rec : List Byte) (s : State) : State :=
  let rd := resolveRead rec
  let wr := resolveWrite rec
  { s with
    flags := { s.flags with idMismatch := false, recordCorrupt := !rd.2 || !wr.2 }
    rdCursor := clamp s.totalPages rd.1
    wrCursor := clamp s.totalPages wr.1
    crc7 := chk (copyAt rec 20).value }

/-- `RECOVER()` (R303). It runs only after INIT step 8 has written CID, so its IDTAG() never faults. -/
def recover (s : State) : State :=
  let r := nvReadFrom 0 recordBytes s
  let tag := idTag s.cid
  if r.1.take 5 = tag then recoverMatch r.1 r.2 else recoverMismatch tag r.2

end Sys2Proof.Machine
end

