-- ==== Sys2Proof/Machine/Negotiation.lean ====
section
/-! DEFINITION. The card-negotiation state machine (spec 42_negotiation.md): INIT, its ten steps in order. Step 5's loop
has no bound (R198), so one transition runs INIT up to and including one round of it, and each further round is a
transition of its own, with SEQ = BUSY(INIT, step 5) between (R5, log entry 1). -/

namespace Sys2Proof.Machine

/-- Step 1, reset of the driver state (R191). -/
def initReset (s : State) : State :=
  { release s with
    version := .unset
    capacity := .sc
    totalPages := 0
    rdCursor := 0
    wrCursor := 0
    offset := 0
    mode := .idle
    crc16 := 0
    initArg := 0
    flags := Flags.zero }

/-- Step 1, slow clock and idle clocks (R192). -/
def initIdleClocks (s : State) : State := sendBytes (List.replicate initBytes idleByte) (setClock .slow s)

/-- Step 4, clock switch (R196). -/
def initFastClock (s : State) : State := delay .settle (setClock .fast s)

/-- Step 9, page count (R202). -/
def initPageCount (s : State) : State :=
  { s with totalPages := if s.version = .v2 then Config.csdPages s.csd else v1TotalPages }

/-- Steps 9 and 10, and INIT's success (R202, R203). -/
def initRecover (s : State) : State := returnWord 0x0001 (recover (initPageCount s))

/-- Step 8, the descriptors, CID first (R201), and what follows. -/
def initDescriptors (s : State) : State :=
  let s := readCidDescriptor s
  if descriptorOk s then
    let s := readCsdDescriptor s
    if descriptorOk s then initRecover s else abort .csdFail s
  else abort .cidFail s

/-- Step 7, block length (R200), and what follows. -/
def initBlocklen (s : State) : State :=
  let s := send idxSetBlocklen blocklenArg .r1 false s
  if s.lastR1 = 0x00 then initDescriptors s else abort .blocklenFail s

/-- Step 6, capacity class, for version 2 only (R199), and what follows. -/
def initOcr (s : State) : State :=
  if s.version = .v2 then
    let s := send idxReadOcr 0 .r3 false s
    if s.lastR1 = 0x00 then
      initBlocklen { s with capacity := if ocrCcs s.respPayload then .hc else .sc }
    else abort .ocrFail s
  else initBlocklen s

/-- Step 5, one round of the initialization loop (R197): ready goes on, still idle leaves SEQ at the loop for another
round, anything else aborts. APP_PREFIX's R1 is not tested. -/
def initLoopRound (s : State) : State :=
  let s := send idxAppPrefix 0 .r1 false s
  let s := send idxInitOp s.initArg .r1 false s
  if s.lastR1 = 0x00 then initOcr s
  else if s.lastR1 = 0x01 then { s with seq := .initLoop }
  else abort .initOpFail s

/-- Step 3, the echo check, for version 2 only (R195), then step 4 and the loop. -/
def initEcho (s : State) : State :=
  if s.version = .v2 ∧ echoOk s.respPayload = false then abort .echoMismatch s
  else initLoopRound (initFastClock s)

/-- Step 2, version classification (R194), and what follows. -/
def initClassify (s : State) : State :=
  let s := send idxIfCond ifCondArg .r7 false s
  match classifyR1 s.lastR1 with
  | some v => initEcho { s with version := v, initArg := if v = .v2 then hcsArg else 0 }
  | none => abort .ifCondFail s

/-- INIT from its step 1, GO_IDLE's R1 tested for its idle flag only (R190 to R193). -/
def initStart (s : State) : State :=
  let s := send idxGoIdle 0 .r1 false (initIdleClocks (initReset s))
  if r1Idle s.lastR1 then initClassify s else abort .goIdleFail s

/-- INIT (R190). It is never refused, and abandons an open block (R205). -/
def execInit (s : State) : Outcome := whenLaunched s (.next (initStart s))

end Sys2Proof.Machine
end

