-- ==== Sys2Proof/Machine/Streaming.lean ====
section
/-! DEFINITION. The block streaming engine (spec 44_streaming.md): READ, WRITE, ERASE, GET_STATUS and the procedures
they share. -/

namespace Sys2Proof.Machine

/-- `ADV(c)` (R260): `c + 1` as a natural number, wrapping to 0 at the page count. -/
def advance (totalPages c : Word) : Word := if totalPages.toNat ≤ c.toNat + 1 then 0 else c + 1

/-- `READ_OPEN_PAGE()` (R261). -/
def readOpenPage (s : State) : State :=
  { readBlockOpen idxReadBlock (pageArg s.capacity s.rdCursor) s with mode := .midRead, offset := 0 }

/-- `WRITE_OPEN_PAGE()` (R267). -/
def writeOpenPage (s : State) : State :=
  { writeBlockOpen (pageArg s.capacity s.wrCursor) s with mode := .midWrite, offset := 0 }

/-- `READ_PAGE_END()` (R263): the advance is unconditional. -/
def readPageEnd (s : State) : Except Fault State :=
  let s := readBlockClose s
  persist { s with mode := .idle, offset := 0, rdCursor := advance s.totalPages s.rdCursor }

/-- `WRITE_PAGE_END()` (R265): advance and persist only on an accepted data response. -/
def writePageEnd (s : State) : Except Fault State :=
  let w := writeBlockClose s
  let s := { w.2 with mode := .idle, offset := 0 }
  if w.1 then persist { s with wrCursor := advance s.totalPages s.wrCursor } else .ok s

/-- `READ_STEP()` (R262): the byte, and the state after. -/
def readStep (s : State) : Except Fault (Byte × State) :=
  let x := rxPayload s
  let s := { x.2 with offset := x.2.offset + 1 }
  if s.offset.toNat = pageBytes then
    match readPageEnd s with
    | .ok t => .ok (x.1, t)
    | .error f => .error f
  else .ok (x.1, s)

/-- `WRITE_STEP(v)` (R264). -/
def writeStep (v : Byte) (s : State) : Except Fault State :=
  let s := txPayload v s
  let s := { s with offset := s.offset + 1 }
  if s.offset.toNat = pageBytes then writePageEnd s else .ok s

/-- The most rounds a completion loop can take: OFFSET is a 10-bit register, so from every value it meets the page
boundary within 2^10 increments (R26, R266, log entry 19). -/
def completionRounds : Nat := 1024

/-- `while MODE == MID_WRITE: WRITE_STEP(0x00)` (R266), at most `n` rounds. -/
def completeWrite : Nat → State → Except Fault State
  | 0, s => .ok s
  | n + 1, s =>
    if s.mode = .midWrite then
      match writeStep 0x00 s with
      | .ok t => completeWrite n t
      | .error f => .error f
    else .ok s

/-- `while MODE == MID_READ: READ_STEP()` (R266), at most `n` rounds. -/
def completeRead : Nat → State → Except Fault State
  | 0, s => .ok s
  | n + 1, s =>
    if s.mode = .midRead then
      match readStep s with
      | .ok t => completeRead n t.2
      | .error f => .error f
    else .ok s

/-- `FORCE_COMPLETE()` (R266). -/
def forceComplete (s : State) : Except Fault State :=
  match completeWrite completionRounds s with
  | .ok t => completeRead completionRounds t
  | .error f => .error f

/-- The body of READ (R268): force-complete an open write, open a page if none is open, take one byte. -/
def readBody (s : State) : Except Fault State :=
  match if s.mode = .midWrite then forceComplete s else .ok s with
  | .error f => .error f
  | .ok s =>
    match readStep (if s.mode = .idle then readOpenPage s else s) with
    | .error f => .error f
    | .ok (b, s) => .ok (returnWord (b.setWidth 16) s)

/-- The body of WRITE (R269): force-complete an open read, open a page if none is open, send one byte. -/
def writeBody (v : Byte) (s : State) : Except Fault State :=
  match if s.mode = .midRead then forceComplete s else .ok s with
  | .error f => .error f
  | .ok s =>
    match writeStep v (if s.mode = .idle then writeOpenPage s else s) with
    | .error f => .error f
    | .ok s => .ok (returnWord 0x0000 s)

/-- The body of ERASE (R272): logical only, no card command of its own (R277). -/
def eraseBody (s : State) : Except Fault State :=
  match forceComplete s with
  | .error f => .error f
  | .ok s =>
    match persist { s with rdCursor := s.wrCursor } with
    | .error f => .error f
    | .ok s => .ok (returnWord 0x0000 s)

/-- The body of GET_STATUS (R273). -/
def getStatusBody (s : State) : Except Fault State :=
  match forceComplete s with
  | .error f => .error f
  | .ok s =>
    let s := send idxSendStatus 0 .r2 false s
    .ok (returnWord (pair16 s.lastR1 s.respB2) s)

/-- READ (R268). -/
def execRead (s : State) : Outcome := whenUsable s (settle (readBody s))

/-- WRITE (R269). -/
def execWrite (v : Byte) (s : State) : Outcome := whenUsable s (settle (writeBody v s))

/-- ERASE (R272). -/
def execErase (s : State) : Outcome := whenUsable s (settle (eraseBody s))

/-- GET_STATUS (R273). -/
def execGetStatus (s : State) : Outcome := whenUsable s (settle (getStatusBody s))

end Sys2Proof.Machine
end

