-- ==== Sys2Proof/Machine/Dispatch.lean ====
section
/-! DEFINITION. The meaning of each instruction, one arm per constructor. -/

namespace Sys2Proof.Machine

def exec (i : Instr) (s : State) : Host.Outcome State Fault Refusal :=
  match i with
  | .init => Sys2Proof.Machine.execInit s
  | .read => Sys2Proof.Machine.execRead s
  | .write data => Sys2Proof.Machine.execWrite data s
  | .erase => Sys2Proof.Machine.execErase s
  | .getStatus => Sys2Proof.Machine.execGetStatus s
  | .goIdle => Sys2Proof.Machine.execGoIdle s
  | .ifCond => Sys2Proof.Machine.execIfCond s
  | .appPrefix => Sys2Proof.Machine.execAppPrefix s
  | .initOp arg => Sys2Proof.Machine.execInitOp arg s
  | .readOcr => Sys2Proof.Machine.execReadOcr s
  | .setBlocklen => Sys2Proof.Machine.execSetBlocklen s
  | .readCid => Sys2Proof.Machine.execReadCid s
  | .readCsd => Sys2Proof.Machine.execReadCsd s
  | .readBlock arg => Sys2Proof.Machine.execReadBlock arg s
  | .writeBlock arg => Sys2Proof.Machine.execWriteBlock arg s
  | .sendStatus => Sys2Proof.Machine.execSendStatus s

end Sys2Proof.Machine
end

