-- ==== Sys2Proof/Machine/Cycle.lean ====
section
/-! DEFINITION. What one step does: a launch state faults (spec 10_state.md R42), a running INIT goes on (R21), and
otherwise the next host word is decoded and run (spec 30_encoding.md R90, R94), or the command the framer holds; and the effect of a power loss (spec
60_exceptions.md R345, 70_reset_and_hazards.md R360). -/

namespace Sys2Proof.Machine

/-- The refusal that a word or frame the decoder rejects is given (R336; a frame, R98). -/
def refusalOf : DecodeError → Refusal
  | .reservedOp => .reservedOp
  | .reservedBits => .reservedBits
  | .framePrefix => .frameNotEmitted
  | .frameStop => .frameNotEmitted
  | .frameCrc => .frameNotEmitted
  | .frameIndex => .frameNotEmitted
  | .frameArgument => .frameNotEmitted

/-- Decode what spells an operation and run it. -/
def runRequest (r : Request) (s : State) : Outcome :=
  match decode r with
  | .ok i => exec i s
  | .error e => .refused (refusalOf e)

/-- Take the oldest word presented at the host port and run it; with none, the block waits (R12, R362, log entry 2). -/
def serve (s : State) : Outcome :=
  match s.inbox with
  | [] => .next s
  | hc :: rest => runRequest (.host hc) { s with inbox := rest }

/-- One transition with no power loss in it. -/
def cycle (s : State) : Outcome :=
  match launchFault s with
  | some f => .fault f
  | none =>
    match s.seq with
    | .ready => serve s
    | .initLoop => .next (initLoopRound s)
    | .framing f => runRequest (.frame f) { s with seq := .ready }

/-- One event's effect on the NV store. -/
def nvApply (m : Memory) : Event → Memory
  | .nvWrite a v => Memory.write m a v
  | .nvRead _ _ | .xchg _ _ | .select | .release | .setClock _ | .delay _ => m

/-- What a power loss just before the event `next` does to the NV store: a write it cuts leaves its byte with any
value, here `cut` (R70, R310). -/
def nvCut (m : Memory) (next : Option Event) (cut : Byte) : Memory :=
  match next with
  | some (.nvWrite a _) => Memory.write m a cut
  | _ => m

/-- Whether an event is a bus exchange. -/
def Event.isXchg : Event → Bool
  | .xchg _ _ => true
  | .select | .release | .setClock _ | .delay _ | .nvRead _ _ | .nvWrite _ _ => false

/-- The state after power returns (R360): every register at its reset value, the NV store as the completed events `done`
and the cut one left it. What belongs to the outside world goes on (log entry 10). -/
def afterPowerLoss (s : State) (inbox : List HostWord) (done : List Event) (next : Option Event) (cut : Byte) : State :=
  let made := (done.filter Event.isXchg).length
  { State.reset with
    nv := nvCut (done.foldl nvApply s.nv) next cut
    results := s.results
    events := s.events ++ done
    inbox := inbox
    card := s.card.drop made
    draws := s.draws + made
    cfg := s.cfg }

/-- One transition with a power loss pending: it strikes within this transition's events, or comes nearer (R345).
DESIGN CHOICE (log entry 10): R70 and R345 place a loss between two events and do not say whether an operation whose last
event is done has presented its result word; here it has, and a loss after that event strikes the next transition. A
transition that stops does so also where a power loss is due in it. -/
def cyclePowered (p : PowerCut) (s : State) : Outcome :=
  match cycle s with
  | .next t =>
    let new := t.events.drop s.events.length
    if p.after < new.length ∨ p.after = 0 then
      .next (afterPowerLoss s t.inbox (new.take p.after) (new.drop p.after).head? p.cut)
    else .next { t with power := some ⟨p.after - new.length, p.cut⟩ }
  | o => o

/-- The next transition of the machine. -/
def transition (s : State) : Outcome :=
  match s.power with
  | none => cycle s
  | some p => cyclePowered p { s with power := none }

/-- A request put where the next step takes its own, with no power loss in the way: a host word at the head of what the
host port is given, with SEQ = READY; a command frame in the framer, with SEQ at its SEND (log entries 2, 3). -/
def presentNext (r : Request) (s : State) : State :=
  match r with
  | .host hc => { s with inbox := hc :: s.inbox, seq := .ready, power := none }
  | .frame f => { s with seq := .framing f, power := none }

end Sys2Proof.Machine
end

