-- ==== Sys2Proof/Machine/Step.lean ====
section
/-! DEFINITION. One step of the machine, and how an instruction is placed where the next step takes it. -/

namespace Sys2Proof.Machine

/-- One step. -/
def step (s : State) : Host.Outcome State Fault Refusal := transition s

/-- `s` with the instruction of `nbits` bits `w` (numbered as spec/opcode_table.json numbers them) as the very
next request (log entries 2, 3, 18). -/
def State.withFetchWord (s : State) (nbits w : Nat) : State := presentNext (requestOfBits nbits w) s

end Sys2Proof.Machine
end

