-- ==== Sys2Proof/Safety.lean ====
section
/-! DEFINITION. The terms the statements use: which states an operation runs in, the invariant every step keeps, and
what the rules say a procedure leaves behind, written over the card's replies instead of as loops. -/

namespace Sys2Proof.Machine

/-- A state the rules produce, between host operations (R12, R42). -/
def Launched (s : State) : Prop := launchFault s = none ∧ s.seq = .ready

/-- A state in which READ, WRITE, ERASE and GET_STATUS run (R336), CID having been written as INIT step 8 does (R34). -/
def Usable (s : State) : Prop := Launched s ∧ s.version ≠ .unset ∧ s.cidWritten = true

/-- A state in which a bare card command runs: no page is open (R74, log entry 4). -/
def CommandReady (s : State) : Prop := Launched s ∧ s.mode = .idle

/-- Both cursors are below the page count, or 0 where it is 0 (R25). -/
def CursorsInRange (s : State) : Prop :=
  if s.totalPages = 0 then s.rdCursor = 0 ∧ s.wrCursor = 0
  else s.rdCursor.toNat < s.totalPages.toNat ∧ s.wrCursor.toNat < s.totalPages.toNat

/-- Every NV cell lies in the address space of NV_ADDR_BITS bits (R39). -/
def NvInSpace (s : State) : Prop := ∀ c ∈ s.nv, c.1 < 2 ^ s.cfg.nvAddrBits

/-- The invariant of every run. -/
structure Inv (s : State) : Prop where
  /-- The state is not one that R42 or 93 I16 faults. -/
  launch : launchFault s = none
  /-- R275: MODE = IDLE implies OFFSET = 0. -/
  idleOffset : s.mode = .idle → s.offset = 0
  /-- R275: an open block has 1 ≤ OFFSET ≤ 511 and SEL = 1. -/
  openOffset : s.mode ≠ .idle → 1 ≤ s.offset.toNat ∧ s.offset.toNat ≤ 511 ∧ s.sel = true
  /-- R25: the cursors are in range. -/
  cursors : CursorsInRange s
  /-- R34: once INIT has succeeded, CID and CSD have been written. -/
  described : s.seq ≠ .initLoop → s.version ≠ .unset → s.cidWritten = true ∧ s.csdWritten = true
  /-- R191, R194: while INIT is in its loop no block is open, the version is known and the page count is still 0. -/
  looping : s.seq = .initLoop → s.mode = .idle ∧ (s.version = .v1 ∨ s.version = .v2) ∧ s.totalPages = 0
  /-- The NV store is in its canonical form. -/
  nvCanonical : Memory.wf s.nv = true
  /-- The NV store lists no address outside its address space. -/
  nvSpace : NvInSpace s

/-- The byte the card returns in the `k`-th exchange from now, counting from 0 (R11). -/
def reply (s : State) (k : Nat) : Byte := (s.card[k]?).getD (Config.cardDraw (s.draws + k))

/-- The next `n` replies. -/
def replies (s : State) (n : Nat) : List Byte := (List.range n).map (reply s)

/-- `s` after the bytes `os` have been exchanged in order (R9). -/
def exchanged (os : List Byte) (s : State) : State :=
  { s with
    card := s.card.drop os.length
    draws := s.draws + os.length
    events := s.events ++ List.zipWith Event.xchg os (replies s os.length) }

/-- A bounded poll of at most `limit` exchanges, whose received bytes are `f 0`, `f 1`, …, makes `k` of them: it ends at
the first byte `stop` accepts, or at the limit (R152, R231, R234). -/
def PollEnds (stop : Byte → Bool) (limit : Nat) (f : Nat → Byte) (k : Nat) : Prop :=
  1 ≤ k ∧ k ≤ limit ∧ (∀ j, j + 1 < k → stop (f j) = false) ∧ (stop (f (k - 1)) = true ∨ k = limit)

/-- How many bytes follow R1 in a shape (R99, R153; R1b's are a poll, R154). -/
def tailLength : Shape → Nat
  | .r1 | .r1b => 0
  | .r2 => 1
  | .r3 | .r7 => 4

/-- How many tail bytes are exchanged after R1 (R153): none after a timeout unless the run's parameter says so. -/
def tailCount (s : State) (shape : Shape) (r1 : Byte) : Nat :=
  if r1 == idleByte && !s.cfg.tailOnTimeout then 0 else tailLength shape

/-- What SEND leaves when its Ncr wait made `k` exchanges (R150 to R155), for every shape but R1b. -/
def afterSend (idx : BitVec 6) (arg : Word) (shape : Shape) (keep : Bool) (k : Nat) (s : State) : State :=
  let r1 := reply s (5 + k)
  let n := tailCount s shape r1
  let x := exchanged (frameBytes idx arg ++ List.replicate (k + n) idleByte) (select s)
  { x with
    cmdIdx := idx
    cmdArg := arg
    crc7 := crc7 (frameHead idx arg)
    lastR1 := r1
    flags := { s.flags with cmdTimeout := r1 == idleByte }
    respB2 := if shape = .r2 ∧ n = 1 then reply s (6 + k) else s.respB2
    respPayload :=
      if (shape = .r3 ∨ shape = .r7) ∧ n = 4 then
        assembleBE [reply s (6 + k), reply s (7 + k), reply s (8 + k), reply s (9 + k)]
      else s.respPayload
    sel := keep
    events := if keep then x.events else x.events ++ [Event.release] }

/-- What READ_BLOCK_OPEN leaves when its SEND made `k` polls and its token wait `j` (R230, R231). -/
def afterReadOpen (idx : BitVec 6) (arg : Word) (k j : Nat) (s : State) : State :=
  let x := exchanged (List.replicate j idleByte) (afterSend idx arg .r1 true k s)
  { x with crc16 := 0, flags := { x.flags with tokenTimeout := reply s (5 + k + j) != startToken } }

/-- What READ_BLOCK_CLOSE leaves when its busy poll made `m` exchanges (R233, R234). -/
def afterReadClose (m : Nat) (s : State) : State :=
  let x := exchanged (List.replicate (3 + m) idleByte) s
  { x with
    flags := { s.flags with
      rdCrcOk := pair16 (reply s 0) (reply s 1) == s.crc16
      busyTimeout := reply s (2 + m) == 0x00 }
    sel := false
    events := x.events ++ [Event.release] }

/-- What WRITE_BLOCK_CLOSE leaves (R238, R239): the data response is the third byte received. -/
def afterWriteClose (s : State) : State :=
  let x := exchanged [s.crc16.extractLsb' 8 8, s.crc16.extractLsb' 0 8, idleByte] s
  let acc := dataAccepted (reply s 2)
  { x with
    flags := { s.flags with
      wrReject := !acc
      wrCrcOk := if s.cfg.writeCrcFlagRecorded then acc else s.flags.wrCrcOk }
    sel := false
    events := x.events ++ [Event.release] }

/-- `s` after `n` payload bytes have been received (R232). -/
def afterReceive (n : Nat) (s : State) : State :=
  { exchanged (List.replicate n idleByte) s with crc16 := crc16From s.crc16 (replies s n) }

/-- `s` after the payload bytes `vs` have been sent (R237). -/
def afterTransmit (vs : List Byte) (s : State) : State :=
  { exchanged vs s with crc16 := crc16From s.crc16 vs }

/-- What READ_OPEN_PAGE leaves when its SEND made `k` polls and its token wait `j` (R261). -/
def afterReadOpenPage (k j : Nat) (s : State) : State :=
  { afterReadOpen idxReadBlock (pageArg s.capacity s.rdCursor) k j s with mode := .midRead, offset := 0 }

/-- What WRITE_OPEN_PAGE leaves when its SEND made `k` polls (R236, R267). -/
def afterWriteOpenPage (k : Nat) (s : State) : State :=
  { exchanged [startToken] (afterSend idxWriteBlock (pageArg s.capacity s.wrCursor) .r1 true k s) with
    crc16 := 0, mode := .midWrite, offset := 0 }

/-- What the end of a read page leaves when its busy poll made `m` exchanges (R263). -/
def afterReadEnd (m : Nat) (s : State) : State :=
  persistWith (idTag s.cid)
    { afterReadClose m s with mode := .idle, offset := 0, rdCursor := advance s.totalPages s.rdCursor }

/-- What the end of a write page leaves (R265): the third byte received from now is the data response. -/
def afterWriteEnd (s : State) : State :=
  if dataAccepted (reply s 2) then
    persistWith (idTag s.cid)
      { afterWriteClose s with mode := .idle, offset := 0, wrCursor := advance s.totalPages s.wrCursor }
  else { afterWriteClose s with mode := .idle, offset := 0 }

/-- An open read page whose rest has been read and discarded, and its end (R266). -/
def afterReadDiscard (m : Nat) (s : State) : State := afterReadEnd m (afterReceive (512 - s.offset.toNat) s)

/-- An open write page padded with zero bytes, and its end (R266). -/
def afterWritePad (s : State) : State :=
  afterWriteEnd (afterTransmit (List.replicate (512 - s.offset.toNat) 0x00) s)

/-- Step 1 of INIT up to GO_IDLE (R191, R192): the driver state reset, ten bytes of 0xFF exchanged while deselected. -/
def initIdled (s : State) : State :=
  exchanged (List.replicate 10 idleByte)
    { s with
      version := .unset, capacity := .sc, totalPages := 0, rdCursor := 0, wrCursor := 0, offset := 0
      mode := .idle, crc16 := 0, initArg := 0, flags := Flags.zero
      sel := false, clk := .at .slow, events := s.events ++ [Event.release, Event.setClock .slow] }

/-- Step 4 of INIT (R196). -/
def fastClocked (s : State) : State :=
  { s with clk := .at .fast, events := s.events ++ [Event.setClock .fast, Event.delay .settle] }

/-- What an abort with a code leaves (R333). -/
def aborted (code : BitVec 4) (s : State) : State :=
  { s with
    version := .unset, flags := { s.flags with abortCode := code }
    sel := false, events := s.events ++ [Event.release], results := s.results ++ [0x0000], seq := .ready }

/-- What READ_DESCRIPTOR leaves before its bytes are stored, with `k` response, `j` token and `m` busy polls (R240). -/
def afterDescriptor (idx : BitVec 6) (k j m : Nat) (s : State) : State :=
  afterReadClose m (afterReceive 16 (afterReadOpen idx 0 k j s))

/-- The 16 bytes a descriptor read receives as its payload (R240). -/
def descriptorBytesAt (k j : Nat) (s : State) : Descriptor :=
  descriptorOf ((List.range 16).map fun n => reply s (6 + k + j + n))

/-- The three bounded waits of a descriptor read (R152, R231, R234). -/
def DescriptorPolls (k j m : Nat) (s : State) : Prop :=
  PollEnds acceptByte ncrPolls (fun n => reply s (6 + n)) k ∧
    PollEnds isToken tokenPolls (fun n => reply s (6 + k + n)) j ∧
    PollEnds readyByte busyPolls (fun n => reply s (25 + k + j + n)) m

/-- The Ncr wait of the next command ends after `k` polls (R152): six frame bytes are exchanged first. -/
def NcrEnds (k : Nat) (s : State) : Prop := PollEnds acceptByte ncrPolls (fun n => reply s (6 + n)) k

/-- How the resolution of a cursor pair may end when the ten writes of its group, which move the cursor from `o` to
`n`, were cut after `j` of them (R310): `a` and `b` are copies 1 and 2 as found, `r` is what RESOLVE gives. -/
def CutOutcome (o n : Word) (j : Nat) (a b : Copy) (r : Word × Bool) : Prop :=
  r.2 = true ∧ (r.1 = a.value ∨ r.1 = b.value) ∧
  (j < 5 → a = ⟨o, true⟩ ∧ (b.valid = false → r.1 = o) ∧ (b.value = o → r.1 = o)) ∧
  (5 ≤ j → b = ⟨n, true⟩ ∧ (a.valid = false → r.1 = n) ∧
    (a = ⟨o, true⟩ → n = o + 1 → r.1 = n) ∧ (a = ⟨o, true⟩ → n ≠ o + 1 → r.1 = o)) ∧
  (j = 10 → r.1 = n)

/-- A card's replies to the frame of a command: the six bytes received while it is sent, which no rule reads (R151),
then `rest`. -/
def frameReplies (rest : List Byte) : List Byte := List.replicate 6 idleByte ++ rest

/-- A card's replies to a descriptor command: R1 0x00, the start token, 16 bytes, two CRC bytes, the filler and one
byte that is not busy (R101, R240). -/
def descriptorReplies (d : Descriptor) (hi lo : Byte) : List Byte :=
  frameReplies ([0x00, startToken] ++ d.toList ++ [hi, lo, idleByte, idleByte])

/-- The replies of a version-2 card that lets INIT succeed in one round of its loop (R190). -/
def version2Replies (ocr : Word) (cid csd : Descriptor) (crcs : BitVec 32) : List Byte :=
  List.replicate 10 idleByte ++ frameReplies [0x01] ++ frameReplies (0x01 :: be4 ifCondArg) ++
    frameReplies [0x01] ++ frameReplies [0x00] ++ frameReplies (0x00 :: be4 ocr) ++ frameReplies [0x00] ++
    descriptorReplies cid (crcs.extractLsb' 24 8) (crcs.extractLsb' 16 8) ++
    descriptorReplies csd (crcs.extractLsb' 8 8) (crcs.extractLsb' 0 8)

/-- The replies of a version-1 card that lets INIT succeed in one round of its loop (R190). -/
def version1Replies (echo : Word) (cid csd : Descriptor) (crcs : BitVec 32) : List Byte :=
  List.replicate 10 idleByte ++ frameReplies [0x01] ++ frameReplies (0x05 :: be4 echo) ++
    frameReplies [0x01] ++ frameReplies [0x00] ++ frameReplies [0x00] ++
    descriptorReplies cid (crcs.extractLsb' 24 8) (crcs.extractLsb' 16 8) ++
    descriptorReplies csd (crcs.extractLsb' 8 8) (crcs.extractLsb' 0 8)

/-- The 25 NV addresses of the record (R64). -/
def InRecord (p : Params) (a : Nat) : Prop := ∃ i, i < recordBytes ∧ a = nvAddr p i

/-- The record as it stands in an NV store (R64, R300). -/
def recordOf (p : Params) (m : Memory) : List Byte :=
  (List.range recordBytes).map fun i => Memory.read m (nvAddr p i)

/-- An event reads or writes the NV store only in the record (R64). -/
def EventInRecord (p : Params) : Event → Prop
  | .nvRead a _ => InRecord p a
  | .nvWrite a _ => InRecord p a
  | .select | .release | .xchg _ _ | .setClock _ | .delay _ => True

/-- The registers that only INIT and a bare descriptor command write (R43): the data operations leave them as they
are. -/
def SameCard (s t : State) : Prop :=
  t.version = s.version ∧ t.capacity = s.capacity ∧ t.totalPages = s.totalPages ∧ t.initArg = s.initArg ∧
    t.cid = s.cid ∧ t.csd = s.csd ∧ t.cidWritten = s.cidWritten ∧ t.csdWritten = s.csdWritten ∧ t.clk = s.clk

end Sys2Proof.Machine
end

