-- ==== Sys2Proof/Certificates/Slice0/Obligations.lean ====
section
/-! DEFINITION. The statements for the provers, from the numbered rules of spec/. -/

open Sys2Proof Sys2Proof.Machine

/-! ## Encoding -/

/-- Decoding the request that spells a well-formed instruction gives the instruction back (R91, R96, R97). -/
def Obligations.DecodeOfEncode : Prop :=
  ∀ i : Instr, i.wellFormed = true → decode (encode i) = .ok i

/-- Every request the decoder accepts is the one that spells the instruction it gives, so each word and each frame has
at most one meaning and no other word or frame has any (R92, R96 to R98). -/
def Obligations.EncodeOfDecode : Prop :=
  ∀ (r : Request) (i : Instr), decode r = .ok i → i.wellFormed = true ∧ encode i = r

/-- Words and frames written out from spec 30_encoding.md decode to the operations they stand for (R91, R96, R97), and two
reserved words to nothing (R92). That a frame whose stop bit is not 1 decodes to nothing is the model's choice (log
entry 17): R96 fixes the bit and does not say what another value does. -/
def Obligations.SampleWordsDecode : Prop :=
  decodeTableWord 16 0x0000 = some .init ∧
  decodeTableWord 16 0x0100 = some .read ∧
  decodeTableWord 16 0x0241 = some (.write 0x41) ∧
  decodeTableWord 16 0x0300 = some .erase ∧
  decodeTableWord 16 0x0400 = some .getStatus ∧
  decodeTableWord 48 0x400000000095 = some .goIdle ∧
  decodeTableWord 48 0x48000001AA87 = some .ifCond ∧
  decodeTableWord 48 0x694000000077 = some (.initOp 0x40000000) ∧
  decodeTableWord 48 0x51000000050F = some (.readBlock 5) ∧
  decodeTableWord 16 0x0500 = none ∧
  decodeTableWord 16 0x0101 = none ∧
  decodeTableWord 48 0x400000000094 = none

/-- Every bare command that runs selects the card and sends, as its first six exchanges, the six bytes of the frame
that spells it, most-significant byte first (R96, R150). That a command runs by itself is the model's (log
entries 3, 22). -/
def Obligations.CommandSendsItsFrame : Prop :=
  ∀ (i : Instr) (f : Frame) (s t : State), encode i = .frame f → exec i s = .next t →
    ∃ new, t.events = s.events ++ Event.select ::
      (List.zipWith Event.xchg
        [f.extractLsb' 40 8, f.extractLsb' 32 8, f.extractLsb' 24 8, f.extractLsb' 16 8, f.extractLsb' 8 8,
          f.extractLsb' 0 8]
        (replies s 6) ++ new)

/-- Which host words are refused, in the decode order of R94, and that no other is (R92, R336). -/
def Obligations.HostWordRefusals : Prop :=
  ∀ (s : State) (hc : HostWord) (rest : List HostWord),
    Launched s → s.power = none → s.inbox = hc :: rest →
    (hc.extractLsb' 11 5 ≠ 0 → step s = .refused .reservedBits) ∧
    (hc.extractLsb' 11 5 = 0 → 5 ≤ (hc.extractLsb' 8 3).toNat → step s = .refused .reservedOp) ∧
    (hc.extractLsb' 11 5 = 0 → (hc.extractLsb' 8 3).toNat < 5 → hc.extractLsb' 8 3 ≠ 2 → hc.extractLsb' 0 8 ≠ 0 →
      step s = .refused .reservedBits) ∧
    (hc = 0x0000 → ∃ t, step s = .next t) ∧
    (hc = 0x0100 ∨ hc.extractLsb' 8 8 = 0x02 ∨ hc = 0x0300 ∨ hc = 0x0400 →
      (s.version = .unset → step s = .refused .notInitialized) ∧
      (s.version ≠ .unset → ∀ r, step s ≠ .refused r))

/-! ## Checksums -/

/-- Both CRC steps can be folded a byte at a time: a step from any running value is a step from 0 of the byte mixed with
the running value's top bits, which is what a table of 256 entries holds (R136); and the values R130 and R133 work out,
which fix the generator polynomials 0x09 and 0x1021. -/
def Obligations.ChecksumsFoldByteAtATime : Prop :=
  (∀ (b : Byte) (c : BitVec 7), crc7Step b c = crc7Step (b ^^^ (c.setWidth 8 <<< 1)) 0) ∧
  (∀ (b : Byte) (c : BitVec 16), crc16Step b c = (c <<< 8) ^^^ crc16Step (b ^^^ c.extractLsb' 8 8) 0) ∧
  crc7Step 0x01 0 = 0x09 ∧ crc7Step 0x40 0 = 0x64 ∧ crc7Step 0xFF 0x7F = 0x09 ∧
  crc16Step 0x01 0 = 0x1021 ∧ crc16Step 0x80 0 = 0x9188 ∧ crc16Step 0xFF 0 = 0x1EF0 ∧
  crc16Step 0x00 0xFFFF = 0xE1F0 ∧ crc16Step 0xFF 0xFFFF = 0xFF00

/-- A data block followed by its own CRC-16, high byte first, leaves a running CRC-16 of 0 (R65, R134), whatever the
generator polynomial; R134's worked value of the nine ASCII digits fixes it. -/
def Obligations.Crc16ResidueIsZero : Prop :=
  (∀ bs : List Byte, crc16 (bs ++ [(crc16 bs).extractLsb' 8 8, (crc16 bs).extractLsb' 0 8]) = 0) ∧
  crc16 [0x31, 0x32, 0x33, 0x34, 0x35, 0x36, 0x37, 0x38, 0x39] = 0x31C3

/-! ## The framer's commands -/

/-- The commands answered by R1 alone run wherever no page is open: six frame bytes and `k` response polls; READ_BLOCK
and WRITE_BLOCK leave the card selected, the others release it (R150 to R155, R160, R162, R163, R165, R168, R169). Every
other register, the NV store and the host port are as before. READ_BLOCK and WRITE_BLOCK run with the argument of every
page `p`, and with an argument that is no page's they are refused (R62, R68). That a command runs by itself with the
argument of its frame, that READ_BLOCK and WRITE_BLOCK then send the command alone, and the refusal's form are the model's
(log entries 3, 17, 21, 22). -/
def Obligations.R1Commands : Prop :=
  ∀ (s : State) (arg p : Word), CommandReady s →
    (∃ k, NcrEnds k s ∧
      exec .goIdle s = .next (afterSend 0 0 .r1 false k s) ∧
      exec .appPrefix s = .next (afterSend 55 0 .r1 false k s) ∧
      exec (.initOp arg) s = .next (afterSend 41 arg .r1 false k s) ∧
      exec .setBlocklen s = .next (afterSend 16 512 .r1 false k s) ∧
      exec (.readBlock (pageArg s.capacity p)) s = .next (afterSend 17 (pageArg s.capacity p) .r1 true k s) ∧
      exec (.writeBlock (pageArg s.capacity p)) s = .next (afterSend 24 (pageArg s.capacity p) .r1 true k s)) ∧
    ((∀ q, arg ≠ pageArg s.capacity q) →
      exec (.readBlock arg) s = .refused .misalignedArgument ∧ exec (.writeBlock arg) s = .refused .misalignedArgument)

/-- IF_COND and READ_OCR take four bytes after R1, most-significant byte first, into RESP_PAYLOAD, SEND_STATUS one into
RESP_B2; after a timeout they do so only where the run's parameter says so (R153, R161, R164, R170). That a command runs
by itself is the model's (log entries 3, 22). -/
def Obligations.TailCommands : Prop :=
  ∀ s : State, CommandReady s → ∃ k, NcrEnds k s ∧
    exec .ifCond s = .next (afterSend 8 0x1AA .r7 false k s) ∧
    exec .readOcr s = .next (afterSend 58 0 .r3 false k s) ∧
    exec .sendStatus s = .next (afterSend 13 0 .r2 false k s) ∧
    (reply s (5 + k) ≠ 0xFF ∨ s.cfg.tailOnTimeout = true →
      (afterSend 58 0 .r3 false k s).respPayload =
        reply s (6 + k) ++ reply s (7 + k) ++ reply s (8 + k) ++ reply s (9 + k) ∧
      (afterSend 8 0x1AA .r7 false k s).respPayload =
        reply s (6 + k) ++ reply s (7 + k) ++ reply s (8 + k) ++ reply s (9 + k) ∧
      (afterSend 13 0 .r2 false k s).respB2 = reply s (6 + k)) ∧
    (reply s (5 + k) = 0xFF → s.cfg.tailOnTimeout = false →
      (afterSend 58 0 .r3 false k s).respPayload = s.respPayload ∧
      (afterSend 8 0x1AA .r7 false k s).respPayload = s.respPayload ∧
      (afterSend 13 0 .r2 false k s).respB2 = s.respB2)

/-- READ_CID and READ_CSD send their command, wait for the token, take 16 payload bytes and close the block (R166, R167,
R240). That the bare frame includes the data block is the model's choice (log entry 21), and so is
that it runs by itself (log entries 3, 22). -/
def Obligations.DescriptorCommands : Prop :=
  ∀ s : State, CommandReady s → ∃ k j m, DescriptorPolls k j m s ∧
    exec .readCid s =
      .next { afterDescriptor 10 k j m s with cid := descriptorBytesAt k j s, cidWritten := true } ∧
    exec .readCsd s =
      .next { afterDescriptor 9 k j m s with csd := descriptorBytesAt k j s, csdWritten := true }

/-- The events of one SEND of any shape, in order, and their numbers (R159). -/
def Obligations.SendEventOrder : Prop :=
  ∀ (idx : BitVec 6) (arg : Word) (shape : Shape) (keep : Bool) (s : State),
    ∃ (k n : Nat) (ins : List Byte), 1 ≤ k ∧ k ≤ 9 ∧ ins.length = 6 + k + n ∧
      (send idx arg shape keep s).events =
        s.events ++ [Event.select] ++ List.zipWith Event.xchg (frameBytes idx arg ++ List.replicate (k + n) 0xFF) ins ++
          (if keep then [] else [Event.release]) ∧
      (shape = .r1 → n = 0) ∧ (shape = .r2 → n ≤ 1) ∧ (shape = .r3 ∨ shape = .r7 → n = 0 ∨ n = 4) ∧
      (shape = .r1b → n ≤ 65535) ∧
      (s.cfg.tailOnTimeout = true → (shape = .r2 → n = 1) ∧ (shape = .r3 ∨ shape = .r7 → n = 4) ∧
        (shape = .r1b → 1 ≤ n)) ∧
      (send idx arg shape keep s).sel = keep

/-- A command run by itself while a page is open stops: no rule frames a command there (R74). The stop is the model's
(log entry 4). -/
def Obligations.CommandInOpenPageStops : Prop :=
  ∀ (i : Instr) (f : Frame) (s : State), encode i = .frame f → Launched s → s.mode ≠ .idle →
    exec i s = .fault .commandInOpenPage

/-! ## Streaming -/

/-- READ inside an open read page, at every offset but the last: one exchange, no command; the result is the byte
received, CRC16 takes it in, OFFSET counts it, and nothing else changes (R232, R262, R268). -/
def Obligations.ReadInsidePage : Prop :=
  ∀ s : State, Usable s → s.mode = .midRead → s.offset ≠ 511 →
    exec .read s = .next (returnWord ((reply s 0).setWidth 16)
      { exchanged [0xFF] s with crc16 := crc16Step (reply s 0) s.crc16, offset := s.offset + 1 })

/-- READ with no page open sends READ_BLOCK at the read cursor, waits for the token and returns the first byte, whatever
R1 and the token wait gave (R230, R231, R261, R268, R270). -/
def Obligations.ReadOpensPage : Prop :=
  ∀ s : State, Usable s → s.mode = .idle →
    ∃ k j, NcrEnds k s ∧ PollEnds isToken tokenPolls (fun n => reply s (6 + k + n)) j ∧
      exec .read s = .next (returnWord ((reply s (6 + k + j)).setWidth 16)
        { afterReceive 1 (afterReadOpenPage k j s) with offset := 1 })

/-- The 512th READ of a page closes it, advances the read cursor whatever the CRC-16 check and the busy poll gave, and
persists (R233 to R235, R262, R263, R268). -/
def Obligations.ReadLastByte : Prop :=
  ∀ s : State, Usable s → s.mode = .midRead → s.offset = 511 →
    ∃ m, PollEnds readyByte busyPolls (fun n => reply s (4 + n)) m ∧
      exec .read s = .next (returnWord ((reply s 0).setWidth 16) (afterReadEnd m (afterReceive 1 s)))

/-- READ while a write page is open pads and ends that page first, then opens a read page (R266, R268, R364). -/
def Obligations.ReadAfterOpenWrite : Prop :=
  ∀ s : State, Usable s → s.mode = .midWrite → s.offset.toNat < 512 →
    ∃ k j, NcrEnds k (afterWritePad s) ∧
      PollEnds isToken tokenPolls (fun n => reply (afterWritePad s) (6 + k + n)) j ∧
      exec .read s = .next (returnWord ((reply (afterWritePad s) (6 + k + j)).setWidth 16)
        { afterReceive 1 (afterReadOpenPage k j (afterWritePad s)) with offset := 1 })

/-- WRITE inside an open write page, at every offset but the last: one exchange, no command; CRC16 takes the byte in,
OFFSET counts it, and nothing else changes (R237, R264, R269). -/
def Obligations.WriteInsidePage : Prop :=
  ∀ (s : State) (v : Byte), Usable s → s.mode = .midWrite → s.offset ≠ 511 →
    exec (.write v) s = .next (returnWord 0x0000
      { exchanged [v] s with crc16 := crc16Step v s.crc16, offset := s.offset + 1 })

/-- WRITE with no page open sends WRITE_BLOCK at the write cursor and the start token, then the byte (R236, R267,
R269). -/
def Obligations.WriteOpensPage : Prop :=
  ∀ (s : State) (v : Byte), Usable s → s.mode = .idle →
    ∃ k, NcrEnds k s ∧
      exec (.write v) s = .next (returnWord 0x0000 { afterTransmit [v] (afterWriteOpenPage k s) with offset := 1 })

/-- The 512th WRITE of a page sends the CRC-16 high byte first, takes the data response, and only where that is accepted
advances the write cursor and persists (R238, R264, R265, R269). -/
def Obligations.WriteLastByte : Prop :=
  ∀ (s : State) (v : Byte), Usable s → s.mode = .midWrite → s.offset = 511 →
    exec (.write v) s = .next (returnWord 0x0000 (afterWriteEnd (afterTransmit [v] s)))

/-- WRITE while a read page is open discards and ends that page first, then opens a write page (R266, R269, R364). -/
def Obligations.WriteAfterOpenRead : Prop :=
  ∀ (s : State) (v : Byte), Usable s → s.mode = .midRead → s.offset.toNat < 512 →
    ∃ m k, PollEnds readyByte busyPolls (fun n => reply s (512 - s.offset.toNat + 3 + n)) m ∧
      NcrEnds k (afterReadDiscard m s) ∧
      exec (.write v) s =
        .next (returnWord 0x0000 { afterTransmit [v] (afterWriteOpenPage k (afterReadDiscard m s)) with offset := 1 })

/-- ERASE with no page open sends nothing on the bus: the read cursor takes the write cursor's value, the record is
persisted, and the write cursor is unchanged (R272, R277). -/
def Obligations.EraseWithNoPageOpen : Prop :=
  ∀ s : State, Usable s → s.mode = .idle →
    exec .erase s = .next (returnWord 0x0000 (persistWith (idTag s.cid) { s with rdCursor := s.wrCursor }))

/-- ERASE with a page open ends the page first; the read cursor takes the write cursor's value after that (R266,
R272). -/
def Obligations.EraseWithPageOpen : Prop :=
  ∀ s : State, Usable s → s.offset.toNat < 512 →
    (s.mode = .midWrite →
      exec .erase s = .next (returnWord 0x0000
        (persistWith (idTag s.cid) { afterWritePad s with rdCursor := (afterWritePad s).wrCursor }))) ∧
    (s.mode = .midRead → ∃ m, PollEnds readyByte busyPolls (fun n => reply s (512 - s.offset.toNat + 3 + n)) m ∧
      exec .erase s = .next (returnWord 0x0000
        (persistWith (idTag s.cid) { afterReadDiscard m s with rdCursor := s.wrCursor })))

/-- GET_STATUS with no page open is one SEND_STATUS; its result word is R1 and the second status byte (R93, R273). -/
def Obligations.GetStatusWithNoPageOpen : Prop :=
  ∀ s : State, Usable s → s.mode = .idle → ∃ k, NcrEnds k s ∧
    exec .getStatus s = .next (returnWord
      ((afterSend 13 0 .r2 false k s).lastR1 ++ (afterSend 13 0 .r2 false k s).respB2)
      (afterSend 13 0 .r2 false k s))

/-- GET_STATUS with a page open ends the page first (R266, R273). -/
def Obligations.GetStatusWithPageOpen : Prop :=
  ∀ s : State, Usable s → s.offset.toNat < 512 →
    (s.mode = .midWrite → ∃ k, NcrEnds k (afterWritePad s) ∧
      exec .getStatus s = .next (returnWord
        ((afterSend 13 0 .r2 false k (afterWritePad s)).lastR1 ++ (afterSend 13 0 .r2 false k (afterWritePad s)).respB2)
        (afterSend 13 0 .r2 false k (afterWritePad s)))) ∧
    (s.mode = .midRead → ∃ m k, PollEnds readyByte busyPolls (fun n => reply s (512 - s.offset.toNat + 3 + n)) m ∧
      NcrEnds k (afterReadDiscard m s) ∧
      exec .getStatus s = .next (returnWord
        ((afterSend 13 0 .r2 false k (afterReadDiscard m s)).lastR1 ++
          (afterSend 13 0 .r2 false k (afterReadDiscard m s)).respB2)
        (afterSend 13 0 .r2 false k (afterReadDiscard m s))))

/-- READ, WRITE, ERASE and GET_STATUS complete in every usable state, also in those no run reaches, present exactly one
result word and leave SEQ at READY (R12, R93, R335). -/
def Obligations.DataOperationsComplete : Prop :=
  ∀ (i : Instr) (s : State), i = .read ∨ (∃ v, i = .write v) ∨ i = .erase ∨ i = .getStatus → Usable s →
    ∃ t w, exec i s = .next t ∧ t.results = s.results ++ [w] ∧ t.seq = .ready

/-- A write page whose data response is not accepted is lost: the write cursor and the NV store are unchanged,
FLAGS.WR_REJECT is set, and the next WRITE opens the same page again (R265, R271). -/
def Obligations.RejectedPageIsReopened : Prop :=
  ∀ (s : State) (v w : Byte), Usable s → s.mode = .midWrite → s.offset = 511 → dataAccepted (reply s 3) = false →
    ∃ t, exec (.write v) s = .next t ∧ t.mode = .idle ∧ t.offset = 0 ∧ t.wrCursor = s.wrCursor ∧ t.nv = s.nv ∧
      t.flags.wrReject = true ∧
      ∃ k u, NcrEnds k t ∧ exec (.write w) t = .next u ∧ u.cmdIdx = 24 ∧
        u.cmdArg = pageArg s.capacity s.wrCursor ∧ u.mode = .midWrite ∧ u.offset = 1

/-- The data operations change none of VERSION, CAPACITY, TOTAL_PAGES, INIT_ARG, CID, CSD and CLK (R43, R335); the two
marks that say whether the descriptors are written stay too (log entry 9). -/
def Obligations.DataOperationsKeepTheCard : Prop :=
  ∀ (i : Instr) (s t : State), i = .read ∨ (∃ v, i = .write v) ∨ i = .erase ∨ i = .getStatus →
    exec i s = .next t → SameCard s t

/-- The worst-case numbers of interface events of the data operations (R372). -/
def Obligations.DataOperationEventBounds : Prop :=
  ∀ s t : State, Inv s →
    (exec .read s = .next t → t.events.length ≤ s.events.length + 65565) ∧
    (∀ v, exec (.write v) s = .next t → t.events.length ≤ s.events.length + 66093) ∧
    (exec .erase s = .next t → t.events.length ≤ s.events.length + 66100) ∧
    (exec .getStatus s = .next t → t.events.length ≤ s.events.length + 66093)

/-- Nothing the data operations do on the bus, and no result they return, depends on what the NV store holds: the record
is read by INIT alone (R303, R362). -/
def Obligations.DataOperationsIgnoreTheStore : Prop :=
  ∀ (i : Instr) (s t : State) (m : Memory), i = .read ∨ (∃ v, i = .write v) ∨ i = .erase ∨ i = .getStatus →
    exec i s = .next t → ∃ m', exec i { s with nv := m } = .next { t with nv := m' }

/-- The cursor advance (R260): the next page, and 0 at the page count, for every cursor and every page count. -/
def Obligations.CursorAdvance : Prop :=
  ∀ total c : Word,
    (c.toNat + 1 < total.toNat → (advance total c).toNat = c.toNat + 1) ∧
    (total.toNat ≤ c.toNat + 1 → advance total c = 0) ∧
    (0 < total.toNat → (advance total c).toNat < total.toNat)

/-- The command argument of a page (R62): the page index on a high-capacity card, its byte address modulo 2^32 on a
standard one, where pages 2^23 apart alias; the latter is a multiple of 512, so no page's access is misaligned (R68). -/
def Obligations.PageArgument : Prop :=
  ∀ p q : Word,
    pageArg .hc p = p ∧
    (pageArg .sc p).toNat = p.toNat * 512 % 2 ^ 32 ∧
    (pageArg .sc p).toNat % 512 = 0 ∧
    (pageArg .sc p = pageArg .sc q ↔ p.toNat % 2 ^ 23 = q.toNat % 2 ^ 23)

/-! ## The position record -/

/-- What PERSIST does (R300 to R302, R309): the 25 record bytes hold the tag and four checked little-endian copies,
written as 25 events in PERSIST_ORDER; no other NV byte and no register but CRC7 changes (CRC7's value after it: log
entry 11). -/
def Obligations.PersistWritesTheRecord : Prop :=
  ∀ s : State, s.cidWritten = true → Memory.wf s.nv = true →
    ∃ t, persist s = .ok t ∧
      recordOf s.cfg t.nv =
        [s.cid[0], s.cid[9], s.cid[10], s.cid[11], s.cid[12]] ++
        ((crc7 (le4 s.rdCursor)).setWidth 8 :: le4 s.rdCursor) ++
        ((crc7 (le4 s.rdCursor)).setWidth 8 :: le4 s.rdCursor) ++
        ((crc7 (le4 s.wrCursor)).setWidth 8 :: le4 s.wrCursor) ++
        ((crc7 (le4 s.wrCursor)).setWidth 8 :: le4 s.wrCursor) ∧
      t.events = s.events ++
        [0, 1, 2, 3, 4, 10, 11, 12, 13, 14, 5, 6, 7, 8, 9, 20, 21, 22, 23, 24, 15, 16, 17, 18, 19].map
          (fun i => Event.nvWrite ((s.cfg.nvBase + i) % 2 ^ s.cfg.nvAddrBits) ((recordOf s.cfg t.nv).getD i 0)) ∧
      (∀ a, ¬ InRecord s.cfg a → Memory.read t.nv a = Memory.read s.nv a) ∧
      t = { s with nv := t.nv, events := t.events, crc7 := t.crc7 }

/-- RESOLVE's cases (R304, R305), on the ten stored bytes of a pair: `x` and `y` are the stored checksum bytes of copies
`a` and `b`. -/
def Obligations.ResolveCases : Prop :=
  ∀ (x y : Byte) (a b : Word),
    let g := (x :: le4 a) ++ (y :: le4 b)
    let va := x = (crc7 (le4 a)).setWidth 8
    let vb := y = (crc7 (le4 b)).setWidth 8
    let r := resolve (copyAt g 0) (copyAt g 5)
    (va → vb → a = b → r = (a, true)) ∧
    (va → vb → b = a + 1 → r = (b, true)) ∧
    (va → vb → a ≠ b → b ≠ a + 1 → r = (a, true)) ∧
    (va → ¬ vb → r = (a, true)) ∧
    (¬ va → vb → r = (b, true)) ∧
    (¬ va → ¬ vb → r = (0, false))

/-- RECOVER on the card's own record (R303, R305 to R308): 25 reads in ascending order, each cursor resolved from its own
pair and clamped, RECORD_CORRUPT where a pair has no valid copy, and no write (CRC7's value after it: log entry 11). -/
def Obligations.RecoverMatchingRecord : Prop :=
  ∀ (s : State) (x1 x2 x3 x4 : Byte) (a b c d : Word),
    recordOf s.cfg s.nv =
      idTag s.cid ++ (x1 :: le4 a) ++ (x2 :: le4 b) ++ (x3 :: le4 c) ++ (x4 :: le4 d) →
    let rd := resolve ⟨a, x1 == chkByte a⟩ ⟨b, x2 == chkByte b⟩
    let wr := resolve ⟨c, x3 == chkByte c⟩ ⟨d, x4 == chkByte d⟩
    recover s = { s with
      rdCursor := if rd.1.toNat < s.totalPages.toNat then rd.1 else 0
      wrCursor := if wr.1.toNat < s.totalPages.toNat then wr.1 else 0
      flags := { s.flags with idMismatch := false, recordCorrupt := !rd.2 || !wr.2 }
      crc7 := (recover s).crc7
      events := s.events ++ (List.range 25).map fun i =>
        Event.nvRead (nvAddr s.cfg i) (Memory.read s.nv (nvAddr s.cfg i)) }

/-- RECOVER on another card's record (R303, R308, R311): by default only the five tag bytes are written and the cursors
keep their values; where the run's parameter says so, the whole record is persisted. -/
def Obligations.RecoverForeignRecord : Prop :=
  ∀ s : State, Memory.wf s.nv = true → (recordOf s.cfg s.nv).take 5 ≠ idTag s.cid →
    (recover s).rdCursor = s.rdCursor ∧ (recover s).wrCursor = s.wrCursor ∧
    (recover s).flags = { s.flags with idMismatch := true, recordCorrupt := false } ∧
    (s.cfg.writeCursorsOnMismatch = false →
      recordOf s.cfg (recover s).nv = idTag s.cid ++ (recordOf s.cfg s.nv).drop 5 ∧
      (recover s).events.length = s.events.length + 30) ∧
    (s.cfg.writeCursorsOnMismatch = true →
      recordOf s.cfg (recover s).nv = recordImage (idTag s.cid) s.rdCursor s.wrCursor ∧
      (recover s).events.length = s.events.length + 50)

/-- What PERSIST stores is what the next RECOVER finds, on the same card (R303 to R309): after a power cycle in between,
both cursors come back, clamped to the page count, and neither failure flag is set. -/
def Obligations.PersistThenRecover : Prop :=
  ∀ s t u : State, persist s = .ok t → Memory.wf s.nv = true →
    u.nv = t.nv → u.cfg = s.cfg → idTag u.cid = idTag s.cid →
    (recover u).rdCursor = (if s.rdCursor.toNat < u.totalPages.toNat then s.rdCursor else 0) ∧
    (recover u).wrCursor = (if s.wrCursor.toNat < u.totalPages.toNat then s.wrCursor else 0) ∧
    (recover u).flags.idMismatch = false ∧ (recover u).flags.recordCorrupt = false ∧ (recover u).nv = u.nv

/-- A persist that moves one cursor and is cut by a power loss inside that cursor's group, the byte being written then
left with any value, leaves the tag and the other cursor's pair whole, and the moved cursor resolves as R310 says. -/
def Obligations.CutPersistIsTolerated : Prop :=
  ∀ (s t : State) (old : Word) (m : Nat) (cut : Byte), persist s = .ok t → Memory.wf s.nv = true →
    let new := t.events.drop s.events.length
    let store := nvCut ((new.take m).foldl nvApply s.nv) (new.drop m).head? cut
    let found := recordOf s.cfg store
    (recordOf s.cfg s.nv = recordImage (idTag s.cid) old s.wrCursor → 5 ≤ m → m ≤ 15 →
      found.take 5 = idTag s.cid ∧ resolveWrite found = (s.wrCursor, true) ∧
      CutOutcome old s.rdCursor (m - 5) (copyAt found 5) (copyAt found 10) (resolveRead found)) ∧
    (recordOf s.cfg s.nv = recordImage (idTag s.cid) s.rdCursor old → 15 ≤ m → m ≤ 25 →
      found.take 5 = idTag s.cid ∧ resolveRead found = (s.rdCursor, true) ∧
      CutOutcome old s.wrCursor (m - 15) (copyAt found 15) (copyAt found 20) (resolveWrite found))

/-! ## INIT -/

/-- Steps 1 to 4 of INIT (R191 to R196, R333): the reset and idle clocks, GO_IDLE whose R1 must have its idle flag,
IF_COND classified by its R1, the echo checked on a version-2 card, and the clock switched before the loop. INIT runs in
every launched state, also with a page open (R205). That the first round of the loop belongs to the same transition is
the model's choice (log entry 1). -/
def Obligations.InitNegotiatesTheVersion : Prop :=
  ∀ s : State, Launched s → ∃ k, NcrEnds k (initIdled s) ∧
    let t := afterSend 0 0 .r1 false k (initIdled s)
    (t.lastR1.getLsbD 0 = false → exec .init s = .next (aborted 1 t)) ∧
    (t.lastR1.getLsbD 0 = true → ∃ j, NcrEnds j t ∧
      let u := afterSend 8 0x1AA .r7 false j t
      let one := u.lastR1.extractLsb' 2 6 = 0b000001
      let two := u.lastR1.extractLsb' 2 6 = 0b000000 ∧ u.lastR1.getLsbD 0 = true
      let echoed := u.respPayload.extractLsb' 0 12 = 0x1AA
      (one → exec .init s = .next (initLoopRound (fastClocked { u with version := .v1, initArg := 0 }))) ∧
      (two → echoed →
        exec .init s = .next (initLoopRound (fastClocked { u with version := .v2, initArg := 0x40000000 }))) ∧
      (two → ¬ echoed → exec .init s = .next (aborted 3 { u with version := .v2, initArg := 0x40000000 })) ∧
      (¬ one → ¬ two → exec .init s = .next (aborted 2 u)))

/-- One round of step 5 (R197): APP_PREFIX, whose R1 is not tested, then INIT_OP with INIT_ARG; ready goes on, still idle
goes round again, anything else aborts. In every state of the invariant whose SEQ is at the loop, a step is such a round;
that one round is one step is the model's choice (log entry 1). -/
def Obligations.InitLoopRound : Prop :=
  (∀ s : State, Inv s → s.power = none → s.seq = .initLoop → step s = .next (initLoopRound s)) ∧
  ∀ s : State, ∃ k j, NcrEnds k s ∧ NcrEnds j (afterSend 55 0 .r1 false k s) ∧
    let t := afterSend 41 s.initArg .r1 false j (afterSend 55 0 .r1 false k s)
    (t.lastR1 = 0x00 → initLoopRound s = initOcr t) ∧
    (t.lastR1 = 0x01 → initLoopRound s = { t with seq := .initLoop }) ∧
    (t.lastR1 ≠ 0x00 → t.lastR1 ≠ 0x01 → initLoopRound s = aborted 4 t)

/-- Steps 6 and 7 (R199, R200): the capacity class is read on a version-2 card only, the block length is set on every
card, and any R1 but 0x00 aborts. -/
def Obligations.InitCapacityAndBlockLength : Prop :=
  (∀ s : State, s.version ≠ .v2 → initOcr s = initBlocklen s) ∧
  (∀ s : State, s.version = .v2 → ∃ k, NcrEnds k s ∧
    let t := afterSend 58 0 .r3 false k s
    (t.lastR1 ≠ 0x00 → initOcr s = aborted 5 t) ∧
    (t.lastR1 = 0x00 →
      initOcr s = initBlocklen { t with capacity := if t.respPayload.getLsbD 30 then .hc else .sc })) ∧
  (∀ s : State, ∃ k, NcrEnds k s ∧
    let t := afterSend 16 512 .r1 false k s
    (t.lastR1 ≠ 0x00 → initBlocklen s = aborted 6 t) ∧
    (t.lastR1 = 0x00 → initBlocklen s = initDescriptors t))

/-- Steps 8 to 10 (R201 to R203, R240): CID, then CSD; a read fails exactly when its token wait timed out and its R1 was
not 0x00; then the page count, the recovery and the result word 0x0001. -/
def Obligations.InitDescriptorsAndRecovery : Prop :=
  ∀ s : State, ∃ k j m, DescriptorPolls k j m s ∧
    let t := { afterDescriptor 10 k j m s with cid := descriptorBytesAt k j s, cidWritten := true }
    (t.flags.tokenTimeout = true ∧ t.lastR1 ≠ 0x00 → initDescriptors s = aborted 7 t) ∧
    (¬ (t.flags.tokenTimeout = true ∧ t.lastR1 ≠ 0x00) → ∃ k' j' m', DescriptorPolls k' j' m' t ∧
      let u := { afterDescriptor 9 k' j' m' t with csd := descriptorBytesAt k' j' t, csdWritten := true }
      (u.flags.tokenTimeout = true ∧ u.lastR1 ≠ 0x00 → initDescriptors s = aborted 8 u) ∧
      (¬ (u.flags.tokenTimeout = true ∧ u.lastR1 ≠ 0x00) →
        initDescriptors s = returnWord 0x0001
          (recover { u with totalPages := if u.version = .v2 then Config.csdPages u.csd else 0 })))

/-- INIT succeeds against a version-2 card that answers as R101, R190 and R194 to R201 ask, whatever its OCR, its
descriptors and their CRC-16s: the registers that INIT sets, every flag, and the cursors that the record gives (R190,
R203, R233, R303 to R308). -/
def Obligations.InitSucceedsOnVersion2 : Prop :=
  ∀ (s : State) (ocr : Word) (cid csd : Descriptor) (crcs : BitVec 32) (rest : List Byte), Launched s →
    s.card = version2Replies ocr cid csd crcs ++ rest →
    ∃ t, exec .init s = .next t ∧ t.version = .v2 ∧ t.capacity = (if ocr.getLsbD 30 then .hc else .sc) ∧
      t.totalPages = Config.csdPages csd ∧ t.cid = cid ∧ t.csd = csd ∧ t.initArg = 0x40000000 ∧
      t.mode = .idle ∧ t.offset = 0 ∧ t.sel = false ∧ t.clk = .at .fast ∧ t.seq = .ready ∧
      t.results = s.results ++ [0x0001] ∧ t.card = rest ∧
      t.flags = { Flags.zero with
        rdCrcOk := crcs.extractLsb' 0 16 == crc16 csd.toList
        idMismatch := (recordOf s.cfg s.nv).take 5 != idTag cid
        recordCorrupt := (recordOf s.cfg s.nv).take 5 == idTag cid &&
          !((resolveRead (recordOf s.cfg s.nv)).2 && (resolveWrite (recordOf s.cfg s.nv)).2) } ∧
      (∀ rd wr, recordOf s.cfg s.nv = recordImage (idTag cid) rd wr →
        t.rdCursor = clamp (Config.csdPages csd) rd ∧ t.wrCursor = clamp (Config.csdPages csd) wr ∧ t.nv = s.nv) ∧
      ((recordOf s.cfg s.nv).take 5 = idTag cid →
        t.rdCursor = clamp (Config.csdPages csd) (resolveRead (recordOf s.cfg s.nv)).1 ∧
        t.wrCursor = clamp (Config.csdPages csd) (resolveWrite (recordOf s.cfg s.nv)).1 ∧ t.nv = s.nv) ∧
      ((recordOf s.cfg s.nv).take 5 ≠ idTag cid → t.rdCursor = 0 ∧ t.wrCursor = 0)

/-- INIT succeeds against a version-1 card, which is sent no READ_OCR, keeps CAPACITY at SC and has page count 0, so both
cursors are 0 (R23, R194, R199, R202, R203, R307); with every flag (R233, R306, R308). -/
def Obligations.InitSucceedsOnVersion1 : Prop :=
  ∀ (s : State) (echo : Word) (cid csd : Descriptor) (crcs : BitVec 32) (rest : List Byte), Launched s →
    s.card = version1Replies echo cid csd crcs ++ rest →
    ∃ t, exec .init s = .next t ∧ t.version = .v1 ∧ t.capacity = .sc ∧ t.totalPages = 0 ∧ t.rdCursor = 0 ∧
      t.wrCursor = 0 ∧ t.cid = cid ∧ t.csd = csd ∧ t.initArg = 0 ∧ t.mode = .idle ∧ t.offset = 0 ∧ t.sel = false ∧
      t.clk = .at .fast ∧ t.seq = .ready ∧ t.results = s.results ++ [0x0001] ∧ t.card = rest ∧
      t.flags = { Flags.zero with
        rdCrcOk := crcs.extractLsb' 0 16 == crc16 csd.toList
        idMismatch := (recordOf s.cfg s.nv).take 5 != idTag cid
        recordCorrupt := (recordOf s.cfg s.nv).take 5 == idTag cid &&
          !((resolveRead (recordOf s.cfg s.nv)).2 && (resolveWrite (recordOf s.cfg s.nv)).2) }

/-- How a transition of INIT can end, from its start and from a round of its loop (R190, R203, R204, R333): it succeeds
with result 0x0001 and a known version; or it aborts with result 0x0000, one of the eight codes, VERSION = UNSET and the
NV store as it was; or the loop goes on, with no result word and the NV store as it was. That one round is one
transition is the model's choice (log entry 1). -/
def Obligations.InitOutcomes : Prop :=
  ∀ s t : State,
    exec .init s = .next t ∨ (s.version ≠ .unset ∧ s.flags.abortCode = 0 ∧ s.mode = .idle ∧ t = initLoopRound s) →
    t.mode = .idle ∧
    ((t.version ≠ .unset ∧ t.seq = .ready ∧ t.results = s.results ++ [0x0001] ∧ t.flags.abortCode = 0 ∧
        t.cidWritten = true ∧ t.csdWritten = true ∧ t.sel = false) ∨
      (t.version = .unset ∧ t.seq = .ready ∧ t.results = s.results ++ [0x0000] ∧ 1 ≤ t.flags.abortCode.toNat ∧
        t.flags.abortCode.toNat ≤ 8 ∧ t.nv = s.nv ∧ t.sel = false) ∨
      (t.seq = .initLoop ∧ t.results = s.results ∧ t.lastR1 = 0x01 ∧ t.nv = s.nv ∧ t.sel = false))

/-- Step 5 has no bound (R197, R198): against a card that answers 0x01 to everything, from every state of the invariant
whose SEQ is at the loop, INIT is still in its loop after any number of rounds, each of them 14 exchanges. That one round
is one step is the model's choice (log entry 1). -/
def Obligations.InitLoopHasNoBound : Prop :=
  ∀ (n : Nat) (s : State) (rest : List Byte), Inv s → s.power = none → s.seq = .initLoop →
    s.card = List.replicate (14 * n) 0x01 ++ rest →
    ∃ t, Sys2Proof.core.run n s = .next t ∧ t.seq = .initLoop ∧ t.results = s.results ∧ t.card = rest ∧
      t.draws = s.draws + 14 * n

/-- INIT with a page open abandons it (R191, R205): it does exactly what it does where no page is open, so no close byte
is sent, nothing is padded, and no cursor advances or is persisted. -/
def Obligations.InitAbandonsAnOpenPage : Prop :=
  ∀ s : State, Launched s →
    exec .init s = exec .init { s with mode := .idle, offset := 0, crc16 := 0, sel := false }

/-! ## The machine -/

/-- The values every register has at power-on reset, with CID unwritten so that reading it faults; and reset changes no
byte of the NV store: after a power loss that cuts no write, it holds what the completed events left (R44). -/
def Obligations.ResetValues : Prop :=
  State.reset.version = .unset ∧ State.reset.capacity = .sc ∧ State.reset.totalPages = 0 ∧
  State.reset.rdCursor = 0 ∧ State.reset.wrCursor = 0 ∧ State.reset.offset = 0 ∧ State.reset.mode = .idle ∧
  State.reset.crc16 = 0 ∧ State.reset.crc7 = 0 ∧ State.reset.cmdIdx = 0 ∧ State.reset.cmdArg = 0 ∧
  State.reset.lastR1 = 0 ∧ State.reset.respB2 = 0 ∧ State.reset.respPayload = 0 ∧ State.reset.initArg = 0 ∧
  State.reset.cidWritten = false ∧ State.reset.csdWritten = false ∧
  persist State.reset = .error .unwrittenDescriptor ∧ State.reset.flagsWord = 0 ∧
  State.reset.sel = false ∧ State.reset.clk = .none ∧ State.reset.seq = .ready ∧
  ∀ s inbox done cut, (afterPowerLoss s inbox done none cut).nv = done.foldl nvApply s.nv

/-- The invariant holds right after reset. -/
def Obligations.ResetKeepsInv : Prop := Inv State.reset

/-- Every step keeps the invariant: R275 (MODE and OFFSET agree, an open page is selected), the cursor ranges of R25, no
launch state of R42, the written descriptors of R34, and the NV store in its canonical form and its address space. And no
step leaves a command frame in the framer, so the words at the host port alone say what runs next (R342): the position from
which a command runs by itself (log entry 3) is met in no run from reset. -/
def Obligations.StepKeepsInv : Prop :=
  ∀ s t : State, Inv s → step s = .next t → Inv t ∧ ∀ f, t.seq ≠ .framing f

/-- No step from a state of the invariant faults, but for a command run by itself in an open page, which the model adds
(log entries 3, 4): no launch state of R42 is met again, and no unwritten descriptor is read (R34, R337). -/
def Obligations.InvariantStatesDoNotFault : Prop :=
  ∀ (s : State) (f : Fault), Inv s → step s = .fault f → f = .commandInOpenPage

/-- A step runs the decoded instruction: with SEQ = READY the oldest word presented at the host port is taken, decoded
and executed (R90, R94); with SEQ at a SEND the command whose frame the framer holds is (log entry 3). -/
def Obligations.StepRunsTheDecodedInstruction : Prop :=
  ∀ (s : State) (i : Instr), launchFault s = none → s.power = none →
    (∀ (hc : HostWord) (rest : List HostWord), s.seq = .ready → s.inbox = hc :: rest → decode (.host hc) = .ok i →
      step s = exec i { s with inbox := rest }) ∧
    (∀ f : Frame, s.seq = .framing f → decode (.frame f) = .ok i → step s = exec i { s with seq := .ready })

/-- An instruction placed where the next step takes its own is the one that step runs (log entries 2, 3). -/
def Obligations.FetchWordRunsNext : Prop :=
  ∀ (s : State) (nbits w : Nat) (i : Instr), launchFault s = none → decodeTableWord nbits w = some i →
    step (s.withFetchWord nbits w) = exec i { s with seq := .ready, power := none }

/-- With nothing presented the block waits: a step changes nothing (R12, R362). -/
def Obligations.IdleStepWaits : Prop :=
  ∀ s : State, Launched s → s.power = none → s.inbox = [] → step s = .next s

/-- A launch state of R42 faults under its own name, whatever is presented and whichever operation is asked for. So does
SEQ = BUSY(INIT, step 5) with VERSION = UNSET or a page open, which no rule produces: that R337 asks for this fault is
DEDUCED (log entry 12). -/
def Obligations.LaunchStatesFault : Prop :=
  ∀ s : State,
    s.mode = .reserved ∨ s.version = .reserved ∨ 512 < s.offset.toNat ∨ (s.mode ≠ .idle ∧ s.sel = false) ∨
      (s.mode ≠ .idle ∧ s.version = .unset) ∨ (s.seq = .initLoop ∧ (s.version = .unset ∨ s.mode ≠ .idle)) →
    ∃ f ∈ [Fault.launchMode, .launchVersion, .launchOffset, .launchDeselected, .launchUninitialized, .launchLoop],
      step s = .fault f ∧ ∀ i, exec i s = .fault f

/-- PERSIST, where CID has not been written since reset, stops (R34, R337): ERASE with no page open, and the last byte of
a page. -/
def Obligations.UnwrittenDescriptorFaults : Prop :=
  ∀ s : State, Launched s → s.version ≠ .unset → s.cidWritten = false →
    (s.mode = .idle → exec .erase s = .fault .unwrittenDescriptor) ∧
    (s.mode = .midRead → s.offset = 511 → exec .read s = .fault .unwrittenDescriptor) ∧
    (s.mode = .midWrite → s.offset = 511 → dataAccepted (reply s 3) = true →
      ∀ v, exec (.write v) s = .fault .unwrittenDescriptor)

/-- What every step adds to the trace accounts for all it did outside the block (R10, R64, R71, R73): the events only
grow, the NV store is the fold of the NV writes among the new ones, each exchange takes one reply of the card, and NV is
read and written in the record only. (With no power loss pending; the next statement is about one.) -/
def Obligations.TraceAccountsForTheStep : Prop :=
  ∀ s t : State, s.power = none → step s = .next t →
    ∃ new, t.events = s.events ++ new ∧ t.nv = new.foldl nvApply s.nv ∧
      t.draws = s.draws + (new.filter Event.isXchg).length ∧ t.card = s.card.drop (new.filter Event.isXchg).length ∧
      (∀ e ∈ new, EventInRecord s.cfg e) ∧ t.cfg = s.cfg ∧ t.power = none

/-- A power loss that strikes within a step's events (R345, R360): every register takes its reset value, the NV store
keeps what was written, but for the byte whose write was cut, and no event is added. What the outside world holds goes on
(log entry 10). -/
def Obligations.PowerLossResets : Prop :=
  ∀ (s t : State) (p : PowerCut), s.power = some p → step { s with power := none } = .next t →
    Memory.wf s.nv = true → p.after < t.events.length - s.events.length →
    ∃ u, step s = .next u ∧
      u = { State.reset with
        nv := u.nv, results := s.results, events := u.events, inbox := t.inbox, card := u.card, draws := u.draws,
        cfg := s.cfg } ∧
      u.events = t.events.take (s.events.length + p.after) ∧
      let done := ((t.events.drop s.events.length).take p.after).foldl nvApply s.nv
      (∀ a v, t.events[s.events.length + p.after]? = some (Event.nvWrite a v) →
        Memory.read u.nv a = p.cut ∧ ∀ b, b ≠ a → Memory.read u.nv b = Memory.read done b) ∧
      ((∀ a v, t.events[s.events.length + p.after]? ≠ some (Event.nvWrite a v)) → u.nv = done)

/-- No step, not even one that a power loss cuts, changes an NV byte outside the record (R64). -/
def Obligations.NvOutsideTheRecordIsUntouched : Prop :=
  ∀ (s t : State) (a : Nat), step s = .next t → ¬ InRecord s.cfg a → Memory.read t.nv a = Memory.read s.nv a

/-- FLAGS.WR_CRC_OK is never set where the run does not record it (R37, R239): a step leaves it as it is or clears it. -/
def Obligations.WriteCrcFlagStaysClear : Prop :=
  ∀ s t : State, s.cfg.writeCrcFlagRecorded = false → s.flags.wrCrcOk = false → step s = .next t →
    t.flags.wrCrcOk = false

/-- FLAGS as the host reads it, bit by bit (R35): READY is VERSION ≠ UNSET. Bits 11:9 are reserved; that State stores
them, so that a launch state can hold them, is the model's choice (log entry 15), and they read 0 in every state that is
no launch fault. -/
def Obligations.FlagsWordLayout : Prop :=
  ∀ s : State,
    s.flagsWord.getLsbD 0 = s.flags.rdCrcOk ∧ s.flagsWord.getLsbD 1 = s.flags.wrCrcOk ∧
    s.flagsWord.getLsbD 2 = s.flags.cmdTimeout ∧ s.flagsWord.getLsbD 3 = s.flags.tokenTimeout ∧
    s.flagsWord.getLsbD 4 = s.flags.busyTimeout ∧ s.flagsWord.getLsbD 5 = s.flags.wrReject ∧
    s.flagsWord.getLsbD 6 = decide (s.version ≠ .unset) ∧ s.flagsWord.getLsbD 7 = s.flags.recordCorrupt ∧
    s.flagsWord.getLsbD 8 = s.flags.idMismatch ∧ s.flagsWord.extractLsb' 9 3 = s.flags.reservedBits ∧
    (launchFault s = none → s.flagsWord.extractLsb' 9 3 = 0) ∧
    s.flagsWord.extractLsb' 12 4 = s.flags.abortCode
end

