-- ==== Sys2Proof/Laws/State.lean ====
section
/-! SUPPORT. What each named update of the state leaves in each field: one lemma per field per update. -/

namespace Sys2Proof.Machine

@[simp] theorem emit_version (e : Event) (s : State) : (emit e s).version = s.version := rfl
@[simp] theorem emit_capacity (e : Event) (s : State) : (emit e s).capacity = s.capacity := rfl
@[simp] theorem emit_totalPages (e : Event) (s : State) : (emit e s).totalPages = s.totalPages := rfl
@[simp] theorem emit_rdCursor (e : Event) (s : State) : (emit e s).rdCursor = s.rdCursor := rfl
@[simp] theorem emit_wrCursor (e : Event) (s : State) : (emit e s).wrCursor = s.wrCursor := rfl
@[simp] theorem emit_offset (e : Event) (s : State) : (emit e s).offset = s.offset := rfl
@[simp] theorem emit_mode (e : Event) (s : State) : (emit e s).mode = s.mode := rfl
@[simp] theorem emit_crc16 (e : Event) (s : State) : (emit e s).crc16 = s.crc16 := rfl
@[simp] theorem emit_crc7 (e : Event) (s : State) : (emit e s).crc7 = s.crc7 := rfl
@[simp] theorem emit_cmdIdx (e : Event) (s : State) : (emit e s).cmdIdx = s.cmdIdx := rfl
@[simp] theorem emit_cmdArg (e : Event) (s : State) : (emit e s).cmdArg = s.cmdArg := rfl
@[simp] theorem emit_lastR1 (e : Event) (s : State) : (emit e s).lastR1 = s.lastR1 := rfl
@[simp] theorem emit_respB2 (e : Event) (s : State) : (emit e s).respB2 = s.respB2 := rfl
@[simp] theorem emit_respPayload (e : Event) (s : State) : (emit e s).respPayload = s.respPayload := rfl
@[simp] theorem emit_initArg (e : Event) (s : State) : (emit e s).initArg = s.initArg := rfl
@[simp] theorem emit_cid (e : Event) (s : State) : (emit e s).cid = s.cid := rfl
@[simp] theorem emit_csd (e : Event) (s : State) : (emit e s).csd = s.csd := rfl
@[simp] theorem emit_cidWritten (e : Event) (s : State) : (emit e s).cidWritten = s.cidWritten := rfl
@[simp] theorem emit_csdWritten (e : Event) (s : State) : (emit e s).csdWritten = s.csdWritten := rfl
@[simp] theorem emit_flags (e : Event) (s : State) : (emit e s).flags = s.flags := rfl
@[simp] theorem emit_sel (e : Event) (s : State) : (emit e s).sel = s.sel := rfl
@[simp] theorem emit_clk (e : Event) (s : State) : (emit e s).clk = s.clk := rfl
@[simp] theorem emit_seq (e : Event) (s : State) : (emit e s).seq = s.seq := rfl
@[simp] theorem emit_nv (e : Event) (s : State) : (emit e s).nv = s.nv := rfl
@[simp] theorem emit_results (e : Event) (s : State) : (emit e s).results = s.results := rfl
@[simp] theorem emit_events (e : Event) (s : State) : (emit e s).events = s.events ++ [e] := rfl
@[simp] theorem emit_inbox (e : Event) (s : State) : (emit e s).inbox = s.inbox := rfl
@[simp] theorem emit_card (e : Event) (s : State) : (emit e s).card = s.card := rfl
@[simp] theorem emit_draws (e : Event) (s : State) : (emit e s).draws = s.draws := rfl
@[simp] theorem emit_power (e : Event) (s : State) : (emit e s).power = s.power := rfl
@[simp] theorem emit_cfg (e : Event) (s : State) : (emit e s).cfg = s.cfg := rfl

@[simp] theorem select_version (s : State) : (select s).version = s.version := rfl
@[simp] theorem select_capacity (s : State) : (select s).capacity = s.capacity := rfl
@[simp] theorem select_totalPages (s : State) : (select s).totalPages = s.totalPages := rfl
@[simp] theorem select_rdCursor (s : State) : (select s).rdCursor = s.rdCursor := rfl
@[simp] theorem select_wrCursor (s : State) : (select s).wrCursor = s.wrCursor := rfl
@[simp] theorem select_offset (s : State) : (select s).offset = s.offset := rfl
@[simp] theorem select_mode (s : State) : (select s).mode = s.mode := rfl
@[simp] theorem select_crc16 (s : State) : (select s).crc16 = s.crc16 := rfl
@[simp] theorem select_crc7 (s : State) : (select s).crc7 = s.crc7 := rfl
@[simp] theorem select_cmdIdx (s : State) : (select s).cmdIdx = s.cmdIdx := rfl
@[simp] theorem select_cmdArg (s : State) : (select s).cmdArg = s.cmdArg := rfl
@[simp] theorem select_lastR1 (s : State) : (select s).lastR1 = s.lastR1 := rfl
@[simp] theorem select_respB2 (s : State) : (select s).respB2 = s.respB2 := rfl
@[simp] theorem select_respPayload (s : State) : (select s).respPayload = s.respPayload := rfl
@[simp] theorem select_initArg (s : State) : (select s).initArg = s.initArg := rfl
@[simp] theorem select_cid (s : State) : (select s).cid = s.cid := rfl
@[simp] theorem select_csd (s : State) : (select s).csd = s.csd := rfl
@[simp] theorem select_cidWritten (s : State) : (select s).cidWritten = s.cidWritten := rfl
@[simp] theorem select_csdWritten (s : State) : (select s).csdWritten = s.csdWritten := rfl
@[simp] theorem select_flags (s : State) : (select s).flags = s.flags := rfl
@[simp] theorem select_sel (s : State) : (select s).sel = true := rfl
@[simp] theorem select_clk (s : State) : (select s).clk = s.clk := rfl
@[simp] theorem select_seq (s : State) : (select s).seq = s.seq := rfl
@[simp] theorem select_nv (s : State) : (select s).nv = s.nv := rfl
@[simp] theorem select_results (s : State) : (select s).results = s.results := rfl
@[simp] theorem select_events (s : State) : (select s).events = s.events ++ [Event.select] := rfl
@[simp] theorem select_inbox (s : State) : (select s).inbox = s.inbox := rfl
@[simp] theorem select_card (s : State) : (select s).card = s.card := rfl
@[simp] theorem select_draws (s : State) : (select s).draws = s.draws := rfl
@[simp] theorem select_power (s : State) : (select s).power = s.power := rfl
@[simp] theorem select_cfg (s : State) : (select s).cfg = s.cfg := rfl

@[simp] theorem release_version (s : State) : (release s).version = s.version := rfl
@[simp] theorem release_capacity (s : State) : (release s).capacity = s.capacity := rfl
@[simp] theorem release_totalPages (s : State) : (release s).totalPages = s.totalPages := rfl
@[simp] theorem release_rdCursor (s : State) : (release s).rdCursor = s.rdCursor := rfl
@[simp] theorem release_wrCursor (s : State) : (release s).wrCursor = s.wrCursor := rfl
@[simp] theorem release_offset (s : State) : (release s).offset = s.offset := rfl
@[simp] theorem release_mode (s : State) : (release s).mode = s.mode := rfl
@[simp] theorem release_crc16 (s : State) : (release s).crc16 = s.crc16 := rfl
@[simp] theorem release_crc7 (s : State) : (release s).crc7 = s.crc7 := rfl
@[simp] theorem release_cmdIdx (s : State) : (release s).cmdIdx = s.cmdIdx := rfl
@[simp] theorem release_cmdArg (s : State) : (release s).cmdArg = s.cmdArg := rfl
@[simp] theorem release_lastR1 (s : State) : (release s).lastR1 = s.lastR1 := rfl
@[simp] theorem release_respB2 (s : State) : (release s).respB2 = s.respB2 := rfl
@[simp] theorem release_respPayload (s : State) : (release s).respPayload = s.respPayload := rfl
@[simp] theorem release_initArg (s : State) : (release s).initArg = s.initArg := rfl
@[simp] theorem release_cid (s : State) : (release s).cid = s.cid := rfl
@[simp] theorem release_csd (s : State) : (release s).csd = s.csd := rfl
@[simp] theorem release_cidWritten (s : State) : (release s).cidWritten = s.cidWritten := rfl
@[simp] theorem release_csdWritten (s : State) : (release s).csdWritten = s.csdWritten := rfl
@[simp] theorem release_flags (s : State) : (release s).flags = s.flags := rfl
@[simp] theorem release_sel (s : State) : (release s).sel = false := rfl
@[simp] theorem release_clk (s : State) : (release s).clk = s.clk := rfl
@[simp] theorem release_seq (s : State) : (release s).seq = s.seq := rfl
@[simp] theorem release_nv (s : State) : (release s).nv = s.nv := rfl
@[simp] theorem release_results (s : State) : (release s).results = s.results := rfl
@[simp] theorem release_events (s : State) : (release s).events = s.events ++ [Event.release] := rfl
@[simp] theorem release_inbox (s : State) : (release s).inbox = s.inbox := rfl
@[simp] theorem release_card (s : State) : (release s).card = s.card := rfl
@[simp] theorem release_draws (s : State) : (release s).draws = s.draws := rfl
@[simp] theorem release_power (s : State) : (release s).power = s.power := rfl
@[simp] theorem release_cfg (s : State) : (release s).cfg = s.cfg := rfl

@[simp] theorem setClock_version (r : Rate) (s : State) : (setClock r s).version = s.version := rfl
@[simp] theorem setClock_capacity (r : Rate) (s : State) : (setClock r s).capacity = s.capacity := rfl
@[simp] theorem setClock_totalPages (r : Rate) (s : State) : (setClock r s).totalPages = s.totalPages := rfl
@[simp] theorem setClock_rdCursor (r : Rate) (s : State) : (setClock r s).rdCursor = s.rdCursor := rfl
@[simp] theorem setClock_wrCursor (r : Rate) (s : State) : (setClock r s).wrCursor = s.wrCursor := rfl
@[simp] theorem setClock_offset (r : Rate) (s : State) : (setClock r s).offset = s.offset := rfl
@[simp] theorem setClock_mode (r : Rate) (s : State) : (setClock r s).mode = s.mode := rfl
@[simp] theorem setClock_crc16 (r : Rate) (s : State) : (setClock r s).crc16 = s.crc16 := rfl
@[simp] theorem setClock_crc7 (r : Rate) (s : State) : (setClock r s).crc7 = s.crc7 := rfl
@[simp] theorem setClock_cmdIdx (r : Rate) (s : State) : (setClock r s).cmdIdx = s.cmdIdx := rfl
@[simp] theorem setClock_cmdArg (r : Rate) (s : State) : (setClock r s).cmdArg = s.cmdArg := rfl
@[simp] theorem setClock_lastR1 (r : Rate) (s : State) : (setClock r s).lastR1 = s.lastR1 := rfl
@[simp] theorem setClock_respB2 (r : Rate) (s : State) : (setClock r s).respB2 = s.respB2 := rfl
@[simp] theorem setClock_respPayload (r : Rate) (s : State) : (setClock r s).respPayload = s.respPayload := rfl
@[simp] theorem setClock_initArg (r : Rate) (s : State) : (setClock r s).initArg = s.initArg := rfl
@[simp] theorem setClock_cid (r : Rate) (s : State) : (setClock r s).cid = s.cid := rfl
@[simp] theorem setClock_csd (r : Rate) (s : State) : (setClock r s).csd = s.csd := rfl
@[simp] theorem setClock_cidWritten (r : Rate) (s : State) : (setClock r s).cidWritten = s.cidWritten := rfl
@[simp] theorem setClock_csdWritten (r : Rate) (s : State) : (setClock r s).csdWritten = s.csdWritten := rfl
@[simp] theorem setClock_flags (r : Rate) (s : State) : (setClock r s).flags = s.flags := rfl
@[simp] theorem setClock_sel (r : Rate) (s : State) : (setClock r s).sel = s.sel := rfl
@[simp] theorem setClock_clk (r : Rate) (s : State) : (setClock r s).clk = .at r := rfl
@[simp] theorem setClock_seq (r : Rate) (s : State) : (setClock r s).seq = s.seq := rfl
@[simp] theorem setClock_nv (r : Rate) (s : State) : (setClock r s).nv = s.nv := rfl
@[simp] theorem setClock_results (r : Rate) (s : State) : (setClock r s).results = s.results := rfl
@[simp] theorem setClock_events (r : Rate) (s : State) : (setClock r s).events = s.events ++ [Event.setClock r] := rfl
@[simp] theorem setClock_inbox (r : Rate) (s : State) : (setClock r s).inbox = s.inbox := rfl
@[simp] theorem setClock_card (r : Rate) (s : State) : (setClock r s).card = s.card := rfl
@[simp] theorem setClock_draws (r : Rate) (s : State) : (setClock r s).draws = s.draws := rfl
@[simp] theorem setClock_power (r : Rate) (s : State) : (setClock r s).power = s.power := rfl
@[simp] theorem setClock_cfg (r : Rate) (s : State) : (setClock r s).cfg = s.cfg := rfl

@[simp] theorem delay_version (d : Duration) (s : State) : (delay d s).version = s.version := rfl
@[simp] theorem delay_capacity (d : Duration) (s : State) : (delay d s).capacity = s.capacity := rfl
@[simp] theorem delay_totalPages (d : Duration) (s : State) : (delay d s).totalPages = s.totalPages := rfl
@[simp] theorem delay_rdCursor (d : Duration) (s : State) : (delay d s).rdCursor = s.rdCursor := rfl
@[simp] theorem delay_wrCursor (d : Duration) (s : State) : (delay d s).wrCursor = s.wrCursor := rfl
@[simp] theorem delay_offset (d : Duration) (s : State) : (delay d s).offset = s.offset := rfl
@[simp] theorem delay_mode (d : Duration) (s : State) : (delay d s).mode = s.mode := rfl
@[simp] theorem delay_crc16 (d : Duration) (s : State) : (delay d s).crc16 = s.crc16 := rfl
@[simp] theorem delay_crc7 (d : Duration) (s : State) : (delay d s).crc7 = s.crc7 := rfl
@[simp] theorem delay_cmdIdx (d : Duration) (s : State) : (delay d s).cmdIdx = s.cmdIdx := rfl
@[simp] theorem delay_cmdArg (d : Duration) (s : State) : (delay d s).cmdArg = s.cmdArg := rfl
@[simp] theorem delay_lastR1 (d : Duration) (s : State) : (delay d s).lastR1 = s.lastR1 := rfl
@[simp] theorem delay_respB2 (d : Duration) (s : State) : (delay d s).respB2 = s.respB2 := rfl
@[simp] theorem delay_respPayload (d : Duration) (s : State) : (delay d s).respPayload = s.respPayload := rfl
@[simp] theorem delay_initArg (d : Duration) (s : State) : (delay d s).initArg = s.initArg := rfl
@[simp] theorem delay_cid (d : Duration) (s : State) : (delay d s).cid = s.cid := rfl
@[simp] theorem delay_csd (d : Duration) (s : State) : (delay d s).csd = s.csd := rfl
@[simp] theorem delay_cidWritten (d : Duration) (s : State) : (delay d s).cidWritten = s.cidWritten := rfl
@[simp] theorem delay_csdWritten (d : Duration) (s : State) : (delay d s).csdWritten = s.csdWritten := rfl
@[simp] theorem delay_flags (d : Duration) (s : State) : (delay d s).flags = s.flags := rfl
@[simp] theorem delay_sel (d : Duration) (s : State) : (delay d s).sel = s.sel := rfl
@[simp] theorem delay_clk (d : Duration) (s : State) : (delay d s).clk = s.clk := rfl
@[simp] theorem delay_seq (d : Duration) (s : State) : (delay d s).seq = s.seq := rfl
@[simp] theorem delay_nv (d : Duration) (s : State) : (delay d s).nv = s.nv := rfl
@[simp] theorem delay_results (d : Duration) (s : State) : (delay d s).results = s.results := rfl
@[simp] theorem delay_events (d : Duration) (s : State) : (delay d s).events = s.events ++ [Event.delay d] := rfl
@[simp] theorem delay_inbox (d : Duration) (s : State) : (delay d s).inbox = s.inbox := rfl
@[simp] theorem delay_card (d : Duration) (s : State) : (delay d s).card = s.card := rfl
@[simp] theorem delay_draws (d : Duration) (s : State) : (delay d s).draws = s.draws := rfl
@[simp] theorem delay_power (d : Duration) (s : State) : (delay d s).power = s.power := rfl
@[simp] theorem delay_cfg (d : Duration) (s : State) : (delay d s).cfg = s.cfg := rfl

@[simp] theorem sendByte_version (o : Byte) (s : State) : (sendByte o s).version = s.version := rfl
@[simp] theorem sendByte_capacity (o : Byte) (s : State) : (sendByte o s).capacity = s.capacity := rfl
@[simp] theorem sendByte_totalPages (o : Byte) (s : State) : (sendByte o s).totalPages = s.totalPages := rfl
@[simp] theorem sendByte_rdCursor (o : Byte) (s : State) : (sendByte o s).rdCursor = s.rdCursor := rfl
@[simp] theorem sendByte_wrCursor (o : Byte) (s : State) : (sendByte o s).wrCursor = s.wrCursor := rfl
@[simp] theorem sendByte_offset (o : Byte) (s : State) : (sendByte o s).offset = s.offset := rfl
@[simp] theorem sendByte_mode (o : Byte) (s : State) : (sendByte o s).mode = s.mode := rfl
@[simp] theorem sendByte_crc16 (o : Byte) (s : State) : (sendByte o s).crc16 = s.crc16 := rfl
@[simp] theorem sendByte_crc7 (o : Byte) (s : State) : (sendByte o s).crc7 = s.crc7 := rfl
@[simp] theorem sendByte_cmdIdx (o : Byte) (s : State) : (sendByte o s).cmdIdx = s.cmdIdx := rfl
@[simp] theorem sendByte_cmdArg (o : Byte) (s : State) : (sendByte o s).cmdArg = s.cmdArg := rfl
@[simp] theorem sendByte_lastR1 (o : Byte) (s : State) : (sendByte o s).lastR1 = s.lastR1 := rfl
@[simp] theorem sendByte_respB2 (o : Byte) (s : State) : (sendByte o s).respB2 = s.respB2 := rfl
@[simp] theorem sendByte_respPayload (o : Byte) (s : State) : (sendByte o s).respPayload = s.respPayload := rfl
@[simp] theorem sendByte_initArg (o : Byte) (s : State) : (sendByte o s).initArg = s.initArg := rfl
@[simp] theorem sendByte_cid (o : Byte) (s : State) : (sendByte o s).cid = s.cid := rfl
@[simp] theorem sendByte_csd (o : Byte) (s : State) : (sendByte o s).csd = s.csd := rfl
@[simp] theorem sendByte_cidWritten (o : Byte) (s : State) : (sendByte o s).cidWritten = s.cidWritten := rfl
@[simp] theorem sendByte_csdWritten (o : Byte) (s : State) : (sendByte o s).csdWritten = s.csdWritten := rfl
@[simp] theorem sendByte_flags (o : Byte) (s : State) : (sendByte o s).flags = s.flags := rfl
@[simp] theorem sendByte_sel (o : Byte) (s : State) : (sendByte o s).sel = s.sel := rfl
@[simp] theorem sendByte_clk (o : Byte) (s : State) : (sendByte o s).clk = s.clk := rfl
@[simp] theorem sendByte_seq (o : Byte) (s : State) : (sendByte o s).seq = s.seq := rfl
@[simp] theorem sendByte_nv (o : Byte) (s : State) : (sendByte o s).nv = s.nv := rfl
@[simp] theorem sendByte_results (o : Byte) (s : State) : (sendByte o s).results = s.results := rfl
@[simp] theorem sendByte_events (o : Byte) (s : State) : (sendByte o s).events = s.events ++ [Event.xchg o (cardReply s)] := rfl
@[simp] theorem sendByte_inbox (o : Byte) (s : State) : (sendByte o s).inbox = s.inbox := rfl
@[simp] theorem sendByte_card (o : Byte) (s : State) : (sendByte o s).card = s.card.tail := rfl
@[simp] theorem sendByte_draws (o : Byte) (s : State) : (sendByte o s).draws = s.draws + 1 := rfl
@[simp] theorem sendByte_power (o : Byte) (s : State) : (sendByte o s).power = s.power := rfl
@[simp] theorem sendByte_cfg (o : Byte) (s : State) : (sendByte o s).cfg = s.cfg := rfl

@[simp] theorem nvWriteByte_version (i : Nat) (v : Byte) (s : State) : (nvWriteByte i v s).version = s.version := rfl
@[simp] theorem nvWriteByte_capacity (i : Nat) (v : Byte) (s : State) : (nvWriteByte i v s).capacity = s.capacity := rfl
@[simp] theorem nvWriteByte_totalPages (i : Nat) (v : Byte) (s : State) : (nvWriteByte i v s).totalPages = s.totalPages := rfl
@[simp] theorem nvWriteByte_rdCursor (i : Nat) (v : Byte) (s : State) : (nvWriteByte i v s).rdCursor = s.rdCursor := rfl
@[simp] theorem nvWriteByte_wrCursor (i : Nat) (v : Byte) (s : State) : (nvWriteByte i v s).wrCursor = s.wrCursor := rfl
@[simp] theorem nvWriteByte_offset (i : Nat) (v : Byte) (s : State) : (nvWriteByte i v s).offset = s.offset := rfl
@[simp] theorem nvWriteByte_mode (i : Nat) (v : Byte) (s : State) : (nvWriteByte i v s).mode = s.mode := rfl
@[simp] theorem nvWriteByte_crc16 (i : Nat) (v : Byte) (s : State) : (nvWriteByte i v s).crc16 = s.crc16 := rfl
@[simp] theorem nvWriteByte_crc7 (i : Nat) (v : Byte) (s : State) : (nvWriteByte i v s).crc7 = s.crc7 := rfl
@[simp] theorem nvWriteByte_cmdIdx (i : Nat) (v : Byte) (s : State) : (nvWriteByte i v s).cmdIdx = s.cmdIdx := rfl
@[simp] theorem nvWriteByte_cmdArg (i : Nat) (v : Byte) (s : State) : (nvWriteByte i v s).cmdArg = s.cmdArg := rfl
@[simp] theorem nvWriteByte_lastR1 (i : Nat) (v : Byte) (s : State) : (nvWriteByte i v s).lastR1 = s.lastR1 := rfl
@[simp] theorem nvWriteByte_respB2 (i : Nat) (v : Byte) (s : State) : (nvWriteByte i v s).respB2 = s.respB2 := rfl
@[simp] theorem nvWriteByte_respPayload (i : Nat) (v : Byte) (s : State) : (nvWriteByte i v s).respPayload = s.respPayload := rfl
@[simp] theorem nvWriteByte_initArg (i : Nat) (v : Byte) (s : State) : (nvWriteByte i v s).initArg = s.initArg := rfl
@[simp] theorem nvWriteByte_cid (i : Nat) (v : Byte) (s : State) : (nvWriteByte i v s).cid = s.cid := rfl
@[simp] theorem nvWriteByte_csd (i : Nat) (v : Byte) (s : State) : (nvWriteByte i v s).csd = s.csd := rfl
@[simp] theorem nvWriteByte_cidWritten (i : Nat) (v : Byte) (s : State) : (nvWriteByte i v s).cidWritten = s.cidWritten := rfl
@[simp] theorem nvWriteByte_csdWritten (i : Nat) (v : Byte) (s : State) : (nvWriteByte i v s).csdWritten = s.csdWritten := rfl
@[simp] theorem nvWriteByte_flags (i : Nat) (v : Byte) (s : State) : (nvWriteByte i v s).flags = s.flags := rfl
@[simp] theorem nvWriteByte_sel (i : Nat) (v : Byte) (s : State) : (nvWriteByte i v s).sel = s.sel := rfl
@[simp] theorem nvWriteByte_clk (i : Nat) (v : Byte) (s : State) : (nvWriteByte i v s).clk = s.clk := rfl
@[simp] theorem nvWriteByte_seq (i : Nat) (v : Byte) (s : State) : (nvWriteByte i v s).seq = s.seq := rfl
@[simp] theorem nvWriteByte_nv (i : Nat) (v : Byte) (s : State) : (nvWriteByte i v s).nv = Memory.write s.nv (nvAddr s.cfg i) v := rfl
@[simp] theorem nvWriteByte_results (i : Nat) (v : Byte) (s : State) : (nvWriteByte i v s).results = s.results := rfl
@[simp] theorem nvWriteByte_events (i : Nat) (v : Byte) (s : State) : (nvWriteByte i v s).events = s.events ++ [Event.nvWrite (nvAddr s.cfg i) v] := rfl
@[simp] theorem nvWriteByte_inbox (i : Nat) (v : Byte) (s : State) : (nvWriteByte i v s).inbox = s.inbox := rfl
@[simp] theorem nvWriteByte_card (i : Nat) (v : Byte) (s : State) : (nvWriteByte i v s).card = s.card := rfl
@[simp] theorem nvWriteByte_draws (i : Nat) (v : Byte) (s : State) : (nvWriteByte i v s).draws = s.draws := rfl
@[simp] theorem nvWriteByte_power (i : Nat) (v : Byte) (s : State) : (nvWriteByte i v s).power = s.power := rfl
@[simp] theorem nvWriteByte_cfg (i : Nat) (v : Byte) (s : State) : (nvWriteByte i v s).cfg = s.cfg := rfl

@[simp] theorem returnWord_version (w : HostWord) (s : State) : (returnWord w s).version = s.version := rfl
@[simp] theorem returnWord_capacity (w : HostWord) (s : State) : (returnWord w s).capacity = s.capacity := rfl
@[simp] theorem returnWord_totalPages (w : HostWord) (s : State) : (returnWord w s).totalPages = s.totalPages := rfl
@[simp] theorem returnWord_rdCursor (w : HostWord) (s : State) : (returnWord w s).rdCursor = s.rdCursor := rfl
@[simp] theorem returnWord_wrCursor (w : HostWord) (s : State) : (returnWord w s).wrCursor = s.wrCursor := rfl
@[simp] theorem returnWord_offset (w : HostWord) (s : State) : (returnWord w s).offset = s.offset := rfl
@[simp] theorem returnWord_mode (w : HostWord) (s : State) : (returnWord w s).mode = s.mode := rfl
@[simp] theorem returnWord_crc16 (w : HostWord) (s : State) : (returnWord w s).crc16 = s.crc16 := rfl
@[simp] theorem returnWord_crc7 (w : HostWord) (s : State) : (returnWord w s).crc7 = s.crc7 := rfl
@[simp] theorem returnWord_cmdIdx (w : HostWord) (s : State) : (returnWord w s).cmdIdx = s.cmdIdx := rfl
@[simp] theorem returnWord_cmdArg (w : HostWord) (s : State) : (returnWord w s).cmdArg = s.cmdArg := rfl
@[simp] theorem returnWord_lastR1 (w : HostWord) (s : State) : (returnWord w s).lastR1 = s.lastR1 := rfl
@[simp] theorem returnWord_respB2 (w : HostWord) (s : State) : (returnWord w s).respB2 = s.respB2 := rfl
@[simp] theorem returnWord_respPayload (w : HostWord) (s : State) : (returnWord w s).respPayload = s.respPayload := rfl
@[simp] theorem returnWord_initArg (w : HostWord) (s : State) : (returnWord w s).initArg = s.initArg := rfl
@[simp] theorem returnWord_cid (w : HostWord) (s : State) : (returnWord w s).cid = s.cid := rfl
@[simp] theorem returnWord_csd (w : HostWord) (s : State) : (returnWord w s).csd = s.csd := rfl
@[simp] theorem returnWord_cidWritten (w : HostWord) (s : State) : (returnWord w s).cidWritten = s.cidWritten := rfl
@[simp] theorem returnWord_csdWritten (w : HostWord) (s : State) : (returnWord w s).csdWritten = s.csdWritten := rfl
@[simp] theorem returnWord_flags (w : HostWord) (s : State) : (returnWord w s).flags = s.flags := rfl
@[simp] theorem returnWord_sel (w : HostWord) (s : State) : (returnWord w s).sel = s.sel := rfl
@[simp] theorem returnWord_clk (w : HostWord) (s : State) : (returnWord w s).clk = s.clk := rfl
@[simp] theorem returnWord_seq (w : HostWord) (s : State) : (returnWord w s).seq = .ready := rfl
@[simp] theorem returnWord_nv (w : HostWord) (s : State) : (returnWord w s).nv = s.nv := rfl
@[simp] theorem returnWord_results (w : HostWord) (s : State) : (returnWord w s).results = s.results ++ [w] := rfl
@[simp] theorem returnWord_events (w : HostWord) (s : State) : (returnWord w s).events = s.events := rfl
@[simp] theorem returnWord_inbox (w : HostWord) (s : State) : (returnWord w s).inbox = s.inbox := rfl
@[simp] theorem returnWord_card (w : HostWord) (s : State) : (returnWord w s).card = s.card := rfl
@[simp] theorem returnWord_draws (w : HostWord) (s : State) : (returnWord w s).draws = s.draws := rfl
@[simp] theorem returnWord_power (w : HostWord) (s : State) : (returnWord w s).power = s.power := rfl
@[simp] theorem returnWord_cfg (w : HostWord) (s : State) : (returnWord w s).cfg = s.cfg := rfl

@[simp] theorem exchanged_version (os : List Byte) (s : State) : (exchanged os s).version = s.version := rfl
@[simp] theorem exchanged_capacity (os : List Byte) (s : State) : (exchanged os s).capacity = s.capacity := rfl
@[simp] theorem exchanged_totalPages (os : List Byte) (s : State) : (exchanged os s).totalPages = s.totalPages := rfl
@[simp] theorem exchanged_rdCursor (os : List Byte) (s : State) : (exchanged os s).rdCursor = s.rdCursor := rfl
@[simp] theorem exchanged_wrCursor (os : List Byte) (s : State) : (exchanged os s).wrCursor = s.wrCursor := rfl
@[simp] theorem exchanged_offset (os : List Byte) (s : State) : (exchanged os s).offset = s.offset := rfl
@[simp] theorem exchanged_mode (os : List Byte) (s : State) : (exchanged os s).mode = s.mode := rfl
@[simp] theorem exchanged_crc16 (os : List Byte) (s : State) : (exchanged os s).crc16 = s.crc16 := rfl
@[simp] theorem exchanged_crc7 (os : List Byte) (s : State) : (exchanged os s).crc7 = s.crc7 := rfl
@[simp] theorem exchanged_cmdIdx (os : List Byte) (s : State) : (exchanged os s).cmdIdx = s.cmdIdx := rfl
@[simp] theorem exchanged_cmdArg (os : List Byte) (s : State) : (exchanged os s).cmdArg = s.cmdArg := rfl
@[simp] theorem exchanged_lastR1 (os : List Byte) (s : State) : (exchanged os s).lastR1 = s.lastR1 := rfl
@[simp] theorem exchanged_respB2 (os : List Byte) (s : State) : (exchanged os s).respB2 = s.respB2 := rfl
@[simp] theorem exchanged_respPayload (os : List Byte) (s : State) : (exchanged os s).respPayload = s.respPayload := rfl
@[simp] theorem exchanged_initArg (os : List Byte) (s : State) : (exchanged os s).initArg = s.initArg := rfl
@[simp] theorem exchanged_cid (os : List Byte) (s : State) : (exchanged os s).cid = s.cid := rfl
@[simp] theorem exchanged_csd (os : List Byte) (s : State) : (exchanged os s).csd = s.csd := rfl
@[simp] theorem exchanged_cidWritten (os : List Byte) (s : State) : (exchanged os s).cidWritten = s.cidWritten := rfl
@[simp] theorem exchanged_csdWritten (os : List Byte) (s : State) : (exchanged os s).csdWritten = s.csdWritten := rfl
@[simp] theorem exchanged_flags (os : List Byte) (s : State) : (exchanged os s).flags = s.flags := rfl
@[simp] theorem exchanged_sel (os : List Byte) (s : State) : (exchanged os s).sel = s.sel := rfl
@[simp] theorem exchanged_clk (os : List Byte) (s : State) : (exchanged os s).clk = s.clk := rfl
@[simp] theorem exchanged_seq (os : List Byte) (s : State) : (exchanged os s).seq = s.seq := rfl
@[simp] theorem exchanged_nv (os : List Byte) (s : State) : (exchanged os s).nv = s.nv := rfl
@[simp] theorem exchanged_results (os : List Byte) (s : State) : (exchanged os s).results = s.results := rfl
@[simp] theorem exchanged_events (os : List Byte) (s : State) : (exchanged os s).events = s.events ++ List.zipWith Event.xchg os (replies s os.length) := rfl
@[simp] theorem exchanged_inbox (os : List Byte) (s : State) : (exchanged os s).inbox = s.inbox := rfl
@[simp] theorem exchanged_card (os : List Byte) (s : State) : (exchanged os s).card = s.card.drop os.length := rfl
@[simp] theorem exchanged_draws (os : List Byte) (s : State) : (exchanged os s).draws = s.draws + os.length := rfl
@[simp] theorem exchanged_power (os : List Byte) (s : State) : (exchanged os s).power = s.power := rfl
@[simp] theorem exchanged_cfg (os : List Byte) (s : State) : (exchanged os s).cfg = s.cfg := rfl

end Sys2Proof.Machine
end

