-- ==== Sys2Proof/Laws/Bus.lean ====
section
/-! SUPPORT. What the bus operations do, said once over the card's replies: a byte sequence sent, bytes received, and a
bounded poll. -/

namespace Sys2Proof.Machine

theorem cardReply_eq (s : State) : cardReply s = reply s 0 := by
  unfold cardReply reply
  cases h : s.card <;> simp

/-- An exchange moves every later reply one place nearer. -/
@[simp] theorem reply_exchanged (os : List Byte) (s : State) (k : Nat) :
    reply (exchanged os s) k = reply s (os.length + k) := by
  simp only [reply, exchanged_card, exchanged_draws, List.getElem?_drop, Nat.add_assoc]

/-- Replies depend only on what the card is to return. -/
theorem reply_congr {s t : State} (hc : t.card = s.card) (hd : t.draws = s.draws) (k : Nat) : reply t k = reply s k := by
  simp only [reply, hc, hd]

theorem replies_congr {s t : State} (hc : t.card = s.card) (hd : t.draws = s.draws) (n : Nat) :
    replies t n = replies s n := by
  simp only [replies, List.map_inj_left]
  exact fun k _ => reply_congr hc hd k

@[simp] theorem replies_length (s : State) (n : Nat) : (replies s n).length = n := by simp [replies]

/-- The first reply, then the replies after one exchange. -/
theorem replies_succ (s : State) (n : Nat) (o : Byte) :
    replies s (n + 1) = reply s 0 :: replies (exchanged [o] s) n := by
  simp only [replies, List.range_succ_eq_map, List.map_cons, List.map_map]
  congr 1
  apply List.map_congr_left
  intro k _
  simp [Nat.add_comm]

theorem replies_add (s : State) (os : List Byte) (n : Nat) :
    replies s (os.length + n) = replies s os.length ++ replies (exchanged os s) n := by
  simp only [replies, List.range_add, List.map_append, List.map_map]
  congr 1
  apply List.map_congr_left
  intro k _
  simp

@[simp] theorem exchanged_nil (s : State) : exchanged [] s = s := by simp [exchanged]

/-- One exchange is `exchanged` of one byte. -/
theorem sendByte_eq (o : Byte) (s : State) : sendByte o s = exchanged [o] s := by
  simp [sendByte, xchg, emit, exchanged, replies, cardReply_eq]

theorem xchg_eq (o : Byte) (s : State) : xchg o s = (reply s 0, exchanged [o] s) := by
  rw [← sendByte_eq, ← cardReply_eq]
  rfl

/-- Two sequences exchanged one after the other are their concatenation exchanged. -/
theorem exchanged_exchanged (os ps : List Byte) (s : State) :
    exchanged ps (exchanged os s) = exchanged (os ++ ps) s := by
  have hz : List.zipWith Event.xchg (os ++ ps) (replies s (os.length + ps.length))
      = List.zipWith Event.xchg os (replies s os.length)
        ++ List.zipWith Event.xchg ps (replies (exchanged os s) ps.length) := by
    rw [replies_add, List.zipWith_append (by simp)]
  unfold exchanged at hz ⊢
  simp only [hz, List.drop_drop, List.length_append, List.append_assoc, Nat.add_assoc]

/-- A byte sequence sent (R8). -/
theorem sendBytes_eq (os : List Byte) (s : State) : sendBytes os s = exchanged os s := by
  induction os generalizing s with
  | nil => simp [sendBytes]
  | cons o os ih =>
    have : sendBytes (o :: os) s = sendBytes os (sendByte o s) := rfl
    rw [this, ih, sendByte_eq, exchanged_exchanged]
    rfl

/-- Bytes received in order, 0xFF driven throughout (R101). -/
theorem recvBytes_eq (n : Nat) (s : State) :
    recvBytes n s = (replies s n, exchanged (List.replicate n idleByte) s) := by
  induction n generalizing s with
  | zero => simp [recvBytes, replies]
  | succ n ih =>
    simp only [recvBytes, xchg_eq, ih, exchanged_exchanged, ← replies_succ]
    rfl

/-- Everything a bounded poll can do (R152, R231, R234): it makes some number `k` of exchanges, the one at which
`PollEnds` holds; the last byte is the reply to the last of them, and it hits exactly when `stop` accepts that byte. -/
theorem poll_spec (stop : Byte → Bool) (n : Nat) (r : Byte) (s : State) (hn : 0 < n) :
    ∃ k, PollEnds stop n (reply s) k ∧
      poll stop n r s =
        ⟨reply s (k - 1), stop (reply s (k - 1)), exchanged (List.replicate k idleByte) s⟩ := by
  induction n generalizing s r with
  | zero => omega
  | succ n ih =>
    simp only [poll, xchg_eq]
    by_cases h : stop (reply s 0) = true
    · exact ⟨1, ⟨by omega, by omega, fun j hj => by omega, .inl h⟩, by simp [h, List.replicate]⟩
    · rw [if_neg h]
      rcases Nat.eq_zero_or_pos n with rfl | hpos
      · exact ⟨1, ⟨by omega, by omega, fun j hj => by omega, .inr rfl⟩, by simp [poll, h, List.replicate]⟩
      · obtain ⟨k, ⟨h1, hle, hall, hend⟩, heq⟩ := ih (reply s 0) (exchanged [idleByte] s) hpos
        have hshift : ∀ j, reply (exchanged [idleByte] s) j = reply s (j + 1) := by
          intro j
          simp [Nat.add_comm]
        have hk : k - 1 + 1 = k := by omega
        refine ⟨k + 1, ⟨by omega, by omega, fun j hj => ?_, ?_⟩, ?_⟩
        · rcases j with _ | j
          · simpa using h
          · have := hall j (by omega)
            rwa [hshift] at this
        · rw [hshift, hk] at hend
          rcases hend with hend | hend
          · exact .inl (by simpa using hend)
          · exact .inr (by omega)
        · rw [heq, hshift, hk, exchanged_exchanged]
          simp [List.replicate_succ]

/-- A poll ends at one place only. -/
theorem PollEnds_unique {stop : Byte → Bool} {n : Nat} {f : Nat → Byte} {j k : Nat} (hj : PollEnds stop n f j)
    (hk : PollEnds stop n f k) : j = k := by
  obtain ⟨j1, jn, jall, jend⟩ := hj
  obtain ⟨k1, kn, kall, kend⟩ := hk
  by_contra hne
  rcases Nat.lt_or_gt_of_ne hne with h | h
  · have := kall (j - 1) (by omega)
    rcases jend with hj | hj
    · simp [this] at hj
    · omega
  · have := jall (k - 1) (by omega)
    rcases kend with hk | hk
    · simp [this] at hk
    · omega

end Sys2Proof.Machine
end

