-- ==== Sys2Proof/Laws/Framer.lean ====
section
/-! SUPPORT. What SEND does, said once (spec 41_command_framer.md R150 to R155). -/

namespace Sys2Proof.Machine

/-- The page-argument test accepts exactly the arguments that are some page's `ADDR(p)` (R62, R68). -/
theorem isPageArg_iff {c : Capacity} {arg : Word} : isPageArg c arg = true ↔ ∃ p, arg = pageArg c p := by
  cases c with
  | hc => exact ⟨fun _ => ⟨arg, rfl⟩, fun _ => rfl⟩
  | sc =>
    have hs : scArgScale.toNat = 512 := rfl
    simp only [isPageArg, pageArg, hs, beq_iff_eq]
    constructor
    · intro h
      refine ⟨BitVec.ofNat 32 (arg.toNat / 512), BitVec.eq_of_toNat_eq ?_⟩
      rw [BitVec.toNat_mul, hs, BitVec.toNat_ofNat]
      have := arg.isLt
      omega
    · rintro ⟨p, rfl⟩
      rw [BitVec.toNat_mul, hs]
      omega

@[simp] theorem frameBytes_length (idx : BitVec 6) (arg : Word) : (frameBytes idx arg).length = 6 := rfl

/-- The frame is built in CMD_IDX, CMD_ARG and CRC7 and its six bytes are exchanged under select (R150). -/
theorem sendFrame_eq (idx : BitVec 6) (arg : Word) (s : State) :
    sendFrame idx arg s =
      { exchanged (frameBytes idx arg) (select s) with
        cmdIdx := idx, cmdArg := arg, crc7 := crc7 (frameHead idx arg) } := by
  have h : sendFrame idx arg s =
      sendByte (frameTrailer (sendBytes (frameHead idx arg)
          (select { s with cmdIdx := idx, cmdArg := arg, crc7 := crc7 (frameHead idx arg) })).crc7)
        (sendBytes (frameHead idx arg)
          (select { s with cmdIdx := idx, cmdArg := arg, crc7 := crc7 (frameHead idx arg) })) := rfl
  rw [h, sendBytes_eq, sendByte_eq, exchanged_crc7, select_crc7, exchanged_exchanged]
  rfl

/-- The Ncr wait makes between 1 and 9 exchanges and records its last byte and whether it was accepted (R152). -/
theorem ncrWait_eq (s : State) :
    ∃ k, PollEnds acceptByte ncrPolls (reply s) k ∧
      ncrWait s =
        { exchanged (List.replicate k idleByte) s with
          lastR1 := reply s (k - 1)
          flags := { s.flags with cmdTimeout := reply s (k - 1) == idleByte } } := by
  obtain ⟨k, hk, hp⟩ := poll_spec acceptByte ncrPolls idleByte s (by decide)
  refine ⟨k, hk, ?_⟩
  have hb : (!acceptByte (reply s (k - 1))) = (reply s (k - 1) == idleByte) := by
    simp [acceptByte, bne]
  simp only [ncrWait, hp, hb, exchanged_flags]

/-- The busy poll makes between 1 and `n` exchanges (R154, R234). -/
theorem busyWait_eq (n : Nat) (s : State) (hn : 0 < n) :
    ∃ k, PollEnds readyByte n (reply s) k ∧
      busyWait n s =
        { exchanged (List.replicate k idleByte) s with
          flags := { s.flags with busyTimeout := reply s (k - 1) == 0x00 } } := by
  obtain ⟨k, hk, hp⟩ := poll_spec readyByte n idleByte s hn
  refine ⟨k, hk, ?_⟩
  have hb : (!readyByte (reply s (k - 1))) = (reply s (k - 1) == 0x00) := by
    simp [readyByte, bne]
  simp only [busyWait, hp, hb, exchanged_flags]

/-- Everything SEND can do, for every shape but R1b, which no command uses (R98): it makes `k` polls, the number at
which its Ncr wait ends, and leaves `afterSend` of them. -/
theorem send_spec (idx : BitVec 6) (arg : Word) (shape : Shape) (keep : Bool) (s : State) (hs : shape ≠ .r1b) :
    ∃ k, PollEnds acceptByte ncrPolls (fun j => reply s (6 + j)) k ∧
      send idx arg shape keep s = afterSend idx arg shape keep k s := by
  obtain ⟨k, hk, hw⟩ := ncrWait_eq (sendFrame idx arg s)
  have hr : ∀ j, reply (sendFrame idx arg s) j = reply s (6 + j) := by
    intro j
    rw [sendFrame_eq]
    exact reply_exchanged (frameBytes idx arg) (select s) j
  have hf : (fun j => reply s (6 + j)) = reply (sendFrame idx arg s) := by funext j; rw [hr]
  refine ⟨k, by rw [hf]; exact hk, ?_⟩
  have hk1 : 6 + (k - 1) = 5 + k := by have := hk.1; omega
  rw [hr, hk1] at hw
  have hx : exchanged (List.replicate k idleByte) (sendFrame idx arg s) =
      { exchanged (frameBytes idx arg ++ List.replicate k idleByte) (select s) with
        cmdIdx := idx, cmdArg := arg, crc7 := crc7 (frameHead idx arg) } := by
    rw [sendFrame_eq, ← exchanged_exchanged]
    rfl
  have hfl : (sendFrame idx arg s).flags = s.flags := by rw [sendFrame_eq]; rfl
  rw [hx, hfl] at hw
  have htail : ∀ j, reply (ncrWait (sendFrame idx arg s)) j = reply s (6 + k + j) := by
    intro j
    have h1 : reply (exchanged (frameBytes idx arg ++ List.replicate k idleByte) (select s)) j
        = reply s ((frameBytes idx arg ++ List.replicate k idleByte).length + j) := reply_exchanged _ _ j
    have h2 : (frameBytes idx arg ++ List.replicate k idleByte).length = 6 + k := by simp
    rw [h2] at h1
    rw [hw]
    exact h1
  have hcfg : (ncrWait (sendFrame idx arg s)).cfg = s.cfg := by rw [hw]; rfl
  have hct : (ncrWait (sendFrame idx arg s)).flags.cmdTimeout = (reply s (5 + k) == idleByte) := by rw [hw]
  unfold send
  simp only [hct, hcfg]
  by_cases hc : (reply s (5 + k) == idleByte && !s.cfg.tailOnTimeout) = true
  · have hno : (!(reply s (5 + k) == idleByte) || s.cfg.tailOnTimeout) = false := by
      revert hc; cases (reply s (5 + k) == idleByte) <;> cases s.cfg.tailOnTimeout <;> simp
    simp only [hno, Bool.false_eq_true, if_false]
    rw [hw]
    cases keep <;> cases shape <;> simp [afterSend, tailCount, hc, release, emit, exchanged]
  · have hyes : (!(reply s (5 + k) == idleByte) || s.cfg.tailOnTimeout) = true := by
      revert hc; cases (reply s (5 + k) == idleByte) <;> cases s.cfg.tailOnTimeout <;> simp
    simp only [hyes, if_true]
    have hn : tailCount s shape (reply s (5 + k)) = tailLength shape := by simp [tailCount, hc]
    cases shape
    case r1b => exact absurd rfl hs
    case r1 =>
      rw [show responseTail .r1 (ncrWait (sendFrame idx arg s)) = ncrWait (sendFrame idx arg s) from rfl, hw]
      cases keep <;> simp [afterSend, hn, tailLength, release, emit, exchanged]
    case r2 =>
      have ht : responseTail .r2 (ncrWait (sendFrame idx arg s)) =
          { exchanged (List.replicate 1 idleByte) (ncrWait (sendFrame idx arg s)) with respB2 := reply s (6 + k) } := by
        simp only [responseTail, xchg_eq, htail]
        rfl
      have hxx : exchanged (List.replicate 1 idleByte) (ncrWait (sendFrame idx arg s)) =
          { exchanged (frameBytes idx arg ++ List.replicate (k + 1) idleByte) (select s) with
            cmdIdx := idx, cmdArg := arg, crc7 := crc7 (frameHead idx arg), lastR1 := reply s (5 + k),
            flags := { s.flags with cmdTimeout := reply s (5 + k) == idleByte } } := by
        rw [hw, List.replicate_add, ← List.append_assoc, ← exchanged_exchanged _ (List.replicate 1 idleByte)]
        rfl
      rw [ht, hxx]
      cases keep <;> simp [afterSend, hn, tailLength, release, emit, exchanged]
    case r3 | r7 =>
      have ht : responseTail .r3 (ncrWait (sendFrame idx arg s)) =
          { exchanged (List.replicate 4 idleByte) (ncrWait (sendFrame idx arg s)) with
            respPayload := assembleBE [reply s (6 + k), reply s (7 + k), reply s (8 + k), reply s (9 + k)] } := by
        simp only [responseTail, recvBytes_eq, replies, List.range_succ, List.range_zero, List.map_nil,
          List.map_cons, List.nil_append, List.cons_append, htail]
        rw [show 6 + k + 0 = 6 + k from rfl, show 6 + k + 1 = 7 + k by omega, show 6 + k + 2 = 8 + k by omega,
          show 6 + k + 3 = 9 + k by omega]
      have hxx : exchanged (List.replicate 4 idleByte) (ncrWait (sendFrame idx arg s)) =
          { exchanged (frameBytes idx arg ++ List.replicate (k + 4) idleByte) (select s) with
            cmdIdx := idx, cmdArg := arg, crc7 := crc7 (frameHead idx arg), lastR1 := reply s (5 + k),
            flags := { s.flags with cmdTimeout := reply s (5 + k) == idleByte } } := by
        rw [hw, List.replicate_add, ← List.append_assoc, ← exchanged_exchanged _ (List.replicate 4 idleByte)]
        rfl
      try rw [show ∀ t, responseTail .r7 t = responseTail .r3 t from fun _ => rfl]
      rw [ht, hxx]
      cases keep <;> simp [afterSend, hn, tailLength, release, emit, exchanged]

end Sys2Proof.Machine
end

