-- ==== Sys2Proof/Laws/Block.lean ====
section
/-! SUPPORT. What the block-framing procedures do, each said once (spec 43_block_framing.md). -/

namespace Sys2Proof.Machine

theorem crc16From_append (c : BitVec 16) (as bs : List Byte) :
    crc16From c (as ++ bs) = crc16From (crc16From c as) bs := by
  simp [crc16From, List.foldl_append]

/-- The token wait makes between 1 and 255 exchanges (R231). -/
theorem tokenWait_eq (s : State) :
    ∃ j, PollEnds isToken tokenPolls (reply s) j ∧
      tokenWait s =
        { exchanged (List.replicate j idleByte) s with
          flags := { s.flags with tokenTimeout := reply s (j - 1) != startToken } } := by
  obtain ⟨j, hj, hp⟩ := poll_spec isToken tokenPolls idleByte s (by decide)
  refine ⟨j, hj, ?_⟩
  simp only [tokenWait, hp, isToken, exchanged_flags, bne]

@[simp] theorem tailCount_r1 (s : State) (r1 : Byte) : tailCount s .r1 r1 = 0 := by simp [tailCount, tailLength]

/-- After a SEND with keep = true and shape R1, the next reply is the one after its `k`-th poll. -/
theorem reply_afterSend_keep (idx : BitVec 6) (arg : Word) (k j : Nat) (s : State) :
    reply (afterSend idx arg .r1 true k s) j = reply s (6 + k + j) := by
  have h := reply_exchanged (frameBytes idx arg ++ List.replicate (k + 0) idleByte) (select s) j
  have hl : (frameBytes idx arg ++ List.replicate (k + 0) idleByte).length = 6 + k := by simp
  rw [hl, ← tailCount_r1 s (reply s (5 + k))] at h
  exact h

/-- Everything READ_BLOCK_OPEN can do (R230): `k` response polls, `j` token polls, then CRC16 = 0. -/
theorem readBlockOpen_spec (idx : BitVec 6) (arg : Word) (s : State) :
    ∃ k j, PollEnds acceptByte ncrPolls (fun n => reply s (6 + n)) k ∧
      PollEnds isToken tokenPolls (fun n => reply s (6 + k + n)) j ∧
      readBlockOpen idx arg s = afterReadOpen idx arg k j s := by
  obtain ⟨k, hk, hs⟩ := send_spec idx arg .r1 true s (by decide)
  obtain ⟨j, hj, ht⟩ := tokenWait_eq (afterSend idx arg .r1 true k s)
  refine ⟨k, j, hk, ?_, ?_⟩
  · have hf : reply (afterSend idx arg .r1 true k s) = fun n => reply s (6 + k + n) :=
      funext fun n => reply_afterSend_keep idx arg k n s
    rwa [hf] at hj
  · have hj1 : 6 + k + (j - 1) = 5 + k + j := by have := hj.1; omega
    unfold readBlockOpen
    simp only [hs, ht, reply_afterSend_keep, hj1]
    rfl

/-- Everything WRITE_BLOCK_OPEN can do (R236): `k` response polls, the start token, then CRC16 = 0. -/
theorem writeBlockOpen_spec (arg : Word) (s : State) :
    ∃ k, PollEnds acceptByte ncrPolls (fun n => reply s (6 + n)) k ∧
      writeBlockOpen arg s =
        { exchanged [startToken] (afterSend idxWriteBlock arg .r1 true k s) with crc16 := 0 } := by
  obtain ⟨k, hk, hs⟩ := send_spec idxWriteBlock arg .r1 true s (by decide)
  refine ⟨k, hk, ?_⟩
  unfold writeBlockOpen
  rw [hs, sendByte_eq]

/-- One payload byte received (R232). -/
theorem rxPayload_eq (s : State) : rxPayload s = (reply s 0, afterReceive 1 s) := by
  unfold rxPayload
  rw [xchg_eq]
  rfl

/-- One payload byte sent (R237). -/
theorem txPayload_eq (v : Byte) (s : State) : txPayload v s = afterTransmit [v] s := by
  unfold txPayload
  rw [sendByte_eq]
  rfl

@[simp] theorem reply_afterReceive (n : Nat) (s : State) (j : Nat) : reply (afterReceive n s) j = reply s (n + j) := by
  have := reply_exchanged (List.replicate n idleByte) s j
  rw [List.length_replicate] at this
  exact this

@[simp] theorem reply_afterTransmit (vs : List Byte) (s : State) (j : Nat) :
    reply (afterTransmit vs s) j = reply s (vs.length + j) :=
  reply_exchanged vs s j

/-- Payload received in two parts is payload received at once. -/
theorem afterReceive_afterReceive (m n : Nat) (s : State) :
    afterReceive m (afterReceive n s) = afterReceive (n + m) s := by
  have hx : exchanged (List.replicate m idleByte) (exchanged (List.replicate n idleByte) s)
      = exchanged (List.replicate (n + m) idleByte) s := by
    rw [exchanged_exchanged, List.replicate_add]
  have hr : replies s (n + m) = replies s n ++ replies (exchanged (List.replicate n idleByte) s) m := by
    have := replies_add s (List.replicate n idleByte) m
    rwa [List.length_replicate] at this
  have hl : afterReceive m (afterReceive n s) =
      { exchanged (List.replicate m idleByte) (exchanged (List.replicate n idleByte) s) with
        crc16 := crc16From (crc16From s.crc16 (replies s n))
          (replies (exchanged (List.replicate n idleByte) s) m) } := rfl
  rw [hl, hx, ← crc16From_append, ← hr]
  rfl

/-- Payload sent in two parts is payload sent at once. -/
theorem afterTransmit_afterTransmit (us vs : List Byte) (s : State) :
    afterTransmit us (afterTransmit vs s) = afterTransmit (vs ++ us) s := by
  have hl : afterTransmit us (afterTransmit vs s) =
      { exchanged us (exchanged vs s) with crc16 := crc16From (crc16From s.crc16 vs) us } := rfl
  rw [hl, exchanged_exchanged, ← crc16From_append]
  rfl

/-- `n` payload bytes received in order (R240). -/
theorem rxPayloads_eq (n : Nat) (s : State) : rxPayloads n s = (replies s n, afterReceive n s) := by
  induction n generalizing s with
  | zero => simp [rxPayloads, replies, afterReceive, crc16From]
  | succ n ih =>
    have hr : replies (afterReceive 1 s) n = replies (exchanged [idleByte] s) n := rfl
    simp only [rxPayloads, rxPayload_eq, ih, afterReceive_afterReceive, hr, ← replies_succ, Nat.add_comm 1 n]

/-- Everything READ_BLOCK_CLOSE can do (R233, R234): two CRC bytes, the filler, and `m` busy polls. -/
theorem readBlockClose_spec (s : State) :
    ∃ m, PollEnds readyByte busyPolls (fun n => reply s (3 + n)) m ∧ readBlockClose s = afterReadClose m s := by
  obtain ⟨m, hm, hb⟩ := busyWait_eq busyPolls
    (exchanged [idleByte]
      { exchanged [idleByte, idleByte] s with
        flags := { s.flags with rdCrcOk := pair16 (reply s 0) (reply s 1) == s.crc16 } }) (by decide)
  have hr : ∀ n, reply (exchanged [idleByte]
      { exchanged [idleByte, idleByte] s with
        flags := { s.flags with rdCrcOk := pair16 (reply s 0) (reply s 1) == s.crc16 } }) n = reply s (3 + n) := by
    intro n
    have h2 := reply_exchanged [idleByte, idleByte] s (1 + n)
    rw [show [idleByte, idleByte].length + (1 + n) = 3 + n by simp; omega] at h2
    exact (reply_exchanged [idleByte] _ n).trans h2
  refine ⟨m, by rw [← funext hr]; exact hm, ?_⟩
  have hm1 : 3 + (m - 1) = 2 + m := by have := hm.1; omega
  rw [hr, hm1] at hb
  have h1 : reply (exchanged [idleByte] s) 0 = reply s 1 := reply_exchanged [idleByte] s 0
  have hx : exchanged [idleByte] (exchanged [idleByte] s) = exchanged [idleByte, idleByte] s := exchanged_exchanged _ _ s
  have hcl : readBlockClose s = release (busyWait busyPolls (exchanged [idleByte]
      { exchanged [idleByte, idleByte] s with
        flags := { s.flags with rdCrcOk := pair16 (reply s 0) (reply s 1) == s.crc16 } })) := by
    unfold readBlockClose
    simp only [xchg_eq, sendByte_eq, h1, hx, exchanged_flags, exchanged_crc16]
  have hlong : exchanged (List.replicate m idleByte) (exchanged [idleByte] (exchanged [idleByte, idleByte] s))
      = exchanged (List.replicate (3 + m) idleByte) s := by
    rw [exchanged_exchanged, exchanged_exchanged, List.replicate_add]
    rfl
  have hrec : release (
      { exchanged (List.replicate m idleByte) (exchanged [idleByte]
          { exchanged [idleByte, idleByte] s with
            flags := { s.flags with rdCrcOk := pair16 (reply s 0) (reply s 1) == s.crc16 } }) with
        flags := { s.flags with
          rdCrcOk := pair16 (reply s 0) (reply s 1) == s.crc16
          busyTimeout := reply s (2 + m) == 0x00 } }) =
      release (
      { exchanged (List.replicate m idleByte) (exchanged [idleByte] (exchanged [idleByte, idleByte] s)) with
        flags := { s.flags with
          rdCrcOk := pair16 (reply s 0) (reply s 1) == s.crc16
          busyTimeout := reply s (2 + m) == 0x00 } }) := rfl
  rw [hcl, hb]
  refine Eq.trans hrec ?_
  rw [hlong]
  rfl

/-- What WRITE_BLOCK_CLOSE does (R238, R239). -/
theorem writeBlockClose_eq (s : State) :
    writeBlockClose s = (dataAccepted (reply s 2), afterWriteClose s) := by
  have hx : exchanged [s.crc16.extractLsb' 0 8] (exchanged [s.crc16.extractLsb' 8 8] s)
      = exchanged [s.crc16.extractLsb' 8 8, s.crc16.extractLsb' 0 8] s := exchanged_exchanged _ _ s
  have hr : reply (exchanged [s.crc16.extractLsb' 8 8, s.crc16.extractLsb' 0 8] s) 0 = reply s 2 :=
    reply_exchanged _ s 0
  have hx3 : exchanged [idleByte] (exchanged [s.crc16.extractLsb' 8 8, s.crc16.extractLsb' 0 8] s)
      = exchanged [s.crc16.extractLsb' 8 8, s.crc16.extractLsb' 0 8, idleByte] s := exchanged_exchanged _ _ s
  unfold writeBlockClose
  simp only [sendByte_eq, exchanged_crc16, hx, xchg_eq, hr, hx3, exchanged_flags]
  unfold wrCrcFlag afterWriteClose
  simp only [exchanged_cfg]
  by_cases h : s.cfg.writeCrcFlagRecorded = true
  · simp only [h, if_true]
    rfl
  · simp only [h]
    rfl

/-- Everything READ_DESCRIPTOR's transfer can do (R240). -/
theorem readDescriptorBytes_spec (idx : BitVec 6) (s : State) :
    ∃ k j m, PollEnds acceptByte ncrPolls (fun n => reply s (6 + n)) k ∧
      PollEnds isToken tokenPolls (fun n => reply s (6 + k + n)) j ∧
      PollEnds readyByte busyPolls (fun n => reply s (6 + k + j + 16 + 3 + n)) m ∧
      readDescriptorBytes idx s =
        ((List.range 16).map (fun n => reply s (6 + k + j + n)),
          afterReadClose m (afterReceive 16 (afterReadOpen idx 0 k j s))) := by
  obtain ⟨k, j, hk, hj, ho⟩ := readBlockOpen_spec idx 0 s
  obtain ⟨m, hm, hc⟩ := readBlockClose_spec (afterReceive 16 (afterReadOpen idx 0 k j s))
  have hr : ∀ n, reply (afterReadOpen idx 0 k j s) n = reply s (6 + k + j + n) := by
    intro n
    have := reply_exchanged (List.replicate j idleByte) (afterSend idx 0 .r1 true k s) n
    rw [List.length_replicate, reply_afterSend_keep, ← Nat.add_assoc] at this
    exact this
  refine ⟨k, j, m, hk, hj, ?_, ?_⟩
  · have hf : reply (afterReceive 16 (afterReadOpen idx 0 k j s)) = fun n => reply s (6 + k + j + (16 + n)) :=
      funext fun n => by rw [reply_afterReceive, hr]
    rw [hf] at hm
    simpa only [← Nat.add_assoc] using hm
  · unfold readDescriptorBytes
    simp only [ho, show descriptorBytes = 16 from rfl, rxPayloads_eq, hc, replies]
    rw [List.map_congr_left fun n _ => hr n]

end Sys2Proof.Machine
end

