-- ==== Sys2Proof/Laws/Cycle.lean ====
section
/-! SUPPORT. Everything one transition can do, said once (spec 10_state.md R21, R42; 60_exceptions.md R345). -/

namespace Sys2Proof.Machine

/-- The states that are no launch fault (R42, R337, 93 I16). -/
theorem launchFault_none_iff (s : State) :
    launchFault s = none ↔
      s.mode ≠ .reserved ∧ s.version ≠ .reserved ∧ s.offset.toNat ≤ 512 ∧
      (s.mode ≠ .idle → s.sel = true ∧ s.version ≠ .unset) ∧ (s.seq = .initLoop → loopRegisters s = true) ∧
      s.flags.reservedBits = 0 ∧ s.flags.abortCode.toNat ≤ 8 := by
  have h4 : (s.mode ≠ .idle → s.sel = true ∧ s.version ≠ .unset) ↔
      ¬ (s.mode ≠ .idle ∧ s.sel = false) ∧ ¬ (s.mode ≠ .idle ∧ s.version = .unset) := by
    cases s.sel <;> simp
    tauto
  have h5 : (s.seq = .initLoop → loopRegisters s = true) ↔ ¬ (s.seq = .initLoop ∧ loopRegisters s = false) := by simp
  have h6 : (s.flags.reservedBits = 0 ∧ s.flags.abortCode.toNat ≤ 8) ↔
      ¬ (s.flags.reservedBits ≠ 0 ∨ 8 < s.flags.abortCode.toNat) := by
    rw [not_or, not_not, not_lt]
  rw [h6, h5, h4, ← not_lt]
  unfold launchFault
  repeat' split
  all_goals simp_all

/-- A request that runs to a next state was decoded and executed (R94). -/
theorem runRequest_next {r : Request} {s t : State} (h : runRequest r s = .next t) :
    ∃ i, decode r = .ok i ∧ exec i s = .next t := by
  unfold runRequest at h
  split at h
  · exact ⟨_, ‹_›, h⟩
  · cases h

/-- The four ways a transition with no power loss in it ends in a next state: it waits, it runs a host word, it goes round
INIT's loop, or it runs the command the framer holds. -/
theorem cycle_cases {s t : State} (h : cycle s = .next t) :
    launchFault s = none ∧
    ((s.seq = .ready ∧ s.inbox = [] ∧ t = s) ∨
      (∃ hc rest i, s.seq = .ready ∧ s.inbox = hc :: rest ∧ decode (.host hc) = .ok i ∧
        exec i { s with inbox := rest } = .next t) ∨
      (s.seq = .initLoop ∧ t = initLoopRound s) ∨
      ∃ f i, s.seq = .framing f ∧ decode (.frame f) = .ok i ∧ exec i { s with seq := .ready } = .next t) := by
  unfold cycle at h
  split at h
  · cases h
  refine ⟨‹_›, ?_⟩
  split at h
  · unfold serve at h
    split at h
    · injection h with h
      exact .inl ⟨‹_›, ‹_›, h.symm⟩
    · obtain ⟨i, hd, he⟩ := runRequest_next h
      exact .inr (.inl ⟨_, _, i, ‹_›, ‹_›, hd, he⟩)
  · injection h with h
    exact .inr (.inr (.inl ⟨‹_›, h.symm⟩))
  · obtain ⟨i, hd, he⟩ := runRequest_next h
    exact .inr (.inr (.inr ⟨_, i, ‹_›, hd, he⟩))

/-- A step that answers a next state, with a power loss pending or not: the transition ran to its end, and the loss struck
within it or came nearer (R345). -/
theorem step_cases {s t : State} (h : step s = .next t) :
    (s.power = none ∧ cycle s = .next t) ∨
    ∃ p u, s.power = some p ∧ cycle { s with power := none } = .next u ∧
      let new := u.events.drop s.events.length
      (t = afterPowerLoss { s with power := none } u.inbox (new.take p.after) (new.drop p.after).head? p.cut ∨
        t = { u with power := some ⟨p.after - new.length, p.cut⟩ }) := by
  unfold step transition at h
  split at h
  · exact .inl ⟨‹_›, h⟩
  · rename_i p hp
    unfold cyclePowered at h
    cases hc : cycle { s with power := none } with
    | next u =>
      rw [hc] at h
      dsimp only at h
      refine .inr ⟨p, u, hp, rfl, ?_⟩
      split at h
      · injection h with h; exact .inl h.symm
      · injection h with h; exact .inr h.symm
    | fault f => rw [hc] at h; cases h
    | refused r => rw [hc] at h; cases h

end Sys2Proof.Machine
end

