-- ==== Sys2Proof/Laws/Memory.lean ====
section
/-! SUPPORT. The NV store: read after write, and every operation keeps the canonical form. -/

namespace Sys2Proof.Machine

/-- Reading below every listed address gives the unlisted byte. -/
theorem Memory.read_below {m : Memory} {lo a : Nat} (h : Memory.wfFrom lo m = true) (ha : a < lo) :
    Memory.read m a = nvUnlisted := by
  induction m generalizing lo with
  | nil => rfl
  | cons c m ih =>
    obtain ⟨b, w⟩ := c
    simp only [Memory.wfFrom, Bool.and_eq_true, decide_eq_true_eq] at h
    have hb : b ≠ a := by omega
    simp only [Memory.read, hb, if_false]
    exact ih h.2 (by omega)

/-- A lower bound on the listed addresses may be weakened. -/
theorem Memory.wfFrom_mono {m : Memory} {lo lo' : Nat} (h : Memory.wfFrom lo m = true) (hl : lo' ≤ lo) :
    Memory.wfFrom lo' m = true := by
  cases m with
  | nil => rfl
  | cons c m =>
    obtain ⟨b, w⟩ := c
    simp only [Memory.wfFrom, Bool.and_eq_true, decide_eq_true_eq] at h ⊢
    exact ⟨⟨by omega, h.1.2⟩, h.2⟩

/-- A write reads back. -/
theorem Memory.read_write_same {m : Memory} {lo : Nat} (h : Memory.wfFrom lo m = true) (a : Nat) (v : Byte) :
    Memory.read (Memory.write m a v) a = v := by
  induction m generalizing lo with
  | nil =>
    by_cases hv : v = nvUnlisted <;> simp [Memory.write, Memory.read, hv]
  | cons c m ih =>
    obtain ⟨b, w⟩ := c
    simp only [Memory.wfFrom, Bool.and_eq_true, decide_eq_true_eq] at h
    by_cases hlt : a < b
    · by_cases hv : v = nvUnlisted
      · have hb : b ≠ a := by omega
        simp only [Memory.write, hlt, hv, if_true, Memory.read, hb, if_false]
        exact Memory.read_below h.2 (by omega)
      · simp [Memory.write, hlt, hv, Memory.read]
    · by_cases heq : a = b
      · subst heq
        by_cases hv : v = nvUnlisted
        · simp only [Memory.write, Nat.lt_irrefl, if_false, hv, if_true]
          exact Memory.read_below h.2 (by omega)
        · simp [Memory.write, hv, Memory.read]
      · have hb : b ≠ a := fun e => heq e.symm
        simp only [Memory.write, hlt, heq, if_false, Memory.read, hb]
        exact ih h.2

/-- A write leaves every other address as it was. -/
theorem Memory.read_write_other (m : Memory) {a x : Nat} (v : Byte) (hx : x ≠ a) :
    Memory.read (Memory.write m a v) x = Memory.read m x := by
  have hx' : a ≠ x := fun e => hx e.symm
  induction m with
  | nil => by_cases hv : v = nvUnlisted <;> simp [Memory.write, Memory.read, hv, hx']
  | cons c m ih =>
    obtain ⟨b, w⟩ := c
    by_cases hlt : a < b
    · by_cases hv : v = nvUnlisted <;> simp [Memory.write, hlt, hv, Memory.read, hx']
    · by_cases heq : a = b
      · subst heq
        by_cases hv : v = nvUnlisted <;> simp [Memory.write, hv, Memory.read, hx']
      · simp only [Memory.write, hlt, heq, if_false, Memory.read]
        by_cases hb : b = x <;> simp [hb, ih]

/-- A write keeps the canonical form, for cells from a bound on. -/
theorem Memory.wfFrom_write {m : Memory} {lo : Nat} (h : Memory.wfFrom lo m = true) {a : Nat} (ha : lo ≤ a)
    (v : Byte) : Memory.wfFrom lo (Memory.write m a v) = true := by
  induction m generalizing lo with
  | nil => by_cases hv : v = nvUnlisted <;> simp [Memory.write, Memory.wfFrom, hv, ha]
  | cons c m ih =>
    obtain ⟨b, w⟩ := c
    have hw := h
    simp only [Memory.wfFrom, Bool.and_eq_true, decide_eq_true_eq, bne_iff_ne] at h
    by_cases hlt : a < b
    · by_cases hv : v = nvUnlisted
      · simpa [Memory.write, hlt, hv] using hw
      · simp only [Memory.write, hlt, hv, if_true, if_false, Memory.wfFrom, Bool.and_eq_true, decide_eq_true_eq,
          bne_iff_ne]
        exact ⟨⟨ha, hv⟩, ⟨by omega, h.1.2⟩, h.2⟩
    · by_cases heq : a = b
      · subst heq
        by_cases hv : v = nvUnlisted
        · simpa [Memory.write, hv] using Memory.wfFrom_mono h.2 (by omega)
        · simp only [Memory.write, Nat.lt_irrefl, if_false, if_true, hv, Memory.wfFrom, Bool.and_eq_true,
            decide_eq_true_eq, bne_iff_ne]
          exact ⟨⟨ha, hv⟩, h.2⟩
      · simp only [Memory.write, hlt, heq, if_false, Memory.wfFrom, Bool.and_eq_true, decide_eq_true_eq, bne_iff_ne]
        exact ⟨h.1, ih h.2 (by omega)⟩

/-- A write keeps the canonical form. -/
theorem Memory.wf_write {m : Memory} (h : Memory.wf m = true) (a : Nat) (v : Byte) :
    Memory.wf (Memory.write m a v) = true :=
  Memory.wfFrom_write h (Nat.zero_le a) v

/-- A write adds no cell at another address. -/
theorem Memory.mem_write {m : Memory} {a : Nat} {v : Byte} {c : Host.Cell} (h : c ∈ Memory.write m a v) :
    c.1 = a ∨ c ∈ m := by
  induction m with
  | nil =>
    by_cases hv : v = nvUnlisted
    · simp [Memory.write, hv] at h
    · simp only [Memory.write, hv, if_false, List.mem_singleton] at h
      exact .inl (by rw [h])
  | cons d m ih =>
    obtain ⟨b, w⟩ := d
    simp only [Memory.write] at h
    split at h
    · split at h
      · exact .inr h
      · rcases List.mem_cons.1 h with h | h
        · exact .inl (by rw [h])
        · exact .inr h
    · split at h
      · split at h
        · exact .inr (List.mem_cons_of_mem _ h)
        · rcases List.mem_cons.1 h with h | h
          · exact .inl (by rw [h])
          · exact .inr (List.mem_cons_of_mem _ h)
      · rcases List.mem_cons.1 h with h | h
        · exact .inr (by simp [h])
        · exact (ih h).imp id (List.mem_cons_of_mem _)

/-- Equal reads make canonical stores equal data. -/
theorem Memory.ext_read {m m' : Memory} {lo : Nat} (h : Memory.wfFrom lo m = true) (h' : Memory.wfFrom lo m' = true)
    (hr : ∀ a, Memory.read m a = Memory.read m' a) : m = m' := by
  induction m generalizing lo m' with
  | nil =>
    cases m' with
    | nil => rfl
    | cons c m' =>
      obtain ⟨b, w⟩ := c
      have hb := hr b
      simp only [Memory.wfFrom, Bool.and_eq_true, bne_iff_ne] at h'
      simp only [Memory.read, if_true] at hb
      exact absurd hb.symm h'.1.2
  | cons c m ih =>
    obtain ⟨b, w⟩ := c
    simp only [Memory.wfFrom, Bool.and_eq_true, decide_eq_true_eq, bne_iff_ne] at h
    cases m' with
    | nil =>
      have hb := hr b
      simp only [Memory.read, if_true] at hb
      exact absurd hb h.1.2
    | cons c' m' =>
      obtain ⟨b', w'⟩ := c'
      simp only [Memory.wfFrom, Bool.and_eq_true, decide_eq_true_eq, bne_iff_ne] at h'
      have hb := hr b
      have hb' := hr b'
      have hbb : b = b' := by
        rcases Nat.lt_trichotomy b b' with hlt | heq | hgt
        · have hne : b' ≠ b := by omega
          simp only [Memory.read, if_true, hne, if_false] at hb
          rw [Memory.read_below h'.2 (by omega)] at hb
          exact absurd hb h.1.2
        · exact heq
        · have hne : b ≠ b' := by omega
          simp only [Memory.read, if_true, hne, if_false] at hb'
          rw [Memory.read_below h.2 (by omega)] at hb'
          exact absurd hb'.symm h'.1.2
      subst hbb
      simp only [Memory.read, if_true] at hb
      rw [hb, ih h.2 h'.2 fun a => ?_]
      by_cases ha : b = a
      · subst ha
        rw [Memory.read_below h.2 (by omega), Memory.read_below h'.2 (by omega)]
      · have := hr a
        simpa only [Memory.read, ha, if_false] using this

end Sys2Proof.Machine
end

