-- ==== Sys2Proof/Laws/PerInstr.lean ====
section
/-! SUPPORT. The law family stated for every instruction: its encoding has the width and the fixed bits that its row of
spec/opcode_table.json gives it, whatever its operands. -/

namespace Sys2Proof.Laws

open Sys2Proof.Machine

/-- The width and the bits of a request, bit 0 the least significant (R90, R96). -/
def requestBits : Request → Nat × Nat
  | .host hc => (16, hc.toNat)
  | .frame f => (48, f.toNat)

/-- One row of spec/opcode_table.json: its width, and the value its masked bits have. -/
structure TableRow where
  width : Nat
  mask : Nat
  value : Nat
deriving DecidableEq, Repr

/-- The row of each instruction. -/
def tableRow : Instr → TableRow
  | .init => ⟨16, 0xFFFF, 0x0000⟩
  | .read => ⟨16, 0xFFFF, 0x0100⟩
  | .write _ => ⟨16, 0xFF00, 0x0200⟩
  | .erase => ⟨16, 0xFFFF, 0x0300⟩
  | .getStatus => ⟨16, 0xFFFF, 0x0400⟩
  | .goIdle => ⟨48, 0xFFFFFFFFFFFF, 0x400000000095⟩
  | .ifCond => ⟨48, 0xFFFFFFFFFFFF, 0x48000001AA87⟩
  | .appPrefix => ⟨48, 0xFFFFFFFFFFFF, 0x770000000065⟩
  | .initOp _ => ⟨48, 0xFF0000000001, 0x690000000001⟩
  | .readOcr => ⟨48, 0xFFFFFFFFFFFF, 0x7A00000000FD⟩
  | .setBlocklen => ⟨48, 0xFFFFFFFFFFFF, 0x500000020015⟩
  | .readCid => ⟨48, 0xFFFFFFFFFFFF, 0x4A000000001B⟩
  | .readCsd => ⟨48, 0xFFFFFFFFFFFF, 0x4900000000AF⟩
  | .readBlock _ => ⟨48, 0xFF0000000001, 0x510000000001⟩
  | .writeBlock _ => ⟨48, 0xFF0000000001, 0x580000000001⟩
  | .sendStatus => ⟨48, 0xFFFFFFFFFFFF, 0x4D000000000D⟩

namespace MatchesTable

/-- The encoding of `i` has its row's width and its row's fixed bits. -/
def Statement (i : Instr) : Prop :=
  (requestBits (encode i)).1 = (tableRow i).width ∧
    (requestBits (encode i)).2 &&& (tableRow i).mask = (tableRow i).value

/-- A frame's first byte and stop bit do not depend on its argument (R96). -/
theorem frame_fixed (idx : BitVec 6) (arg : Word) :
    frameWord idx arg &&& 0xFF0000000001#48 = (frameByte0 idx ++ 0#40) ||| 1#48 := by
  unfold frameWord frameTrailer
  rw [show (1 : Byte) = 1#8 from rfl]
  generalize frameByte0 idx = f
  generalize crc7 (frameHead idx arg) = c
  apply BitVec.eq_of_getLsbD_eq
  intro i hi
  have hm : (0xFF0000000001#48).getLsbD i = decide (i = 0 ∨ 40 ≤ i) := by
    have : ∀ n : Fin 48, (0xFF0000000001#48).getLsbD n.val = decide (n.val = 0 ∨ 40 ≤ n.val) := by decide
    exact this ⟨i, hi⟩
  have ho : (1#48).getLsbD i = decide (i = 0) := by
    have : ∀ n : Fin 48, (1#48).getLsbD n.val = decide (n.val = 0) := by decide
    exact this ⟨i, hi⟩
  have h1 : (1#8).getLsbD i = decide (i = 0) := by
    have : ∀ n : Fin 48, (1#8).getLsbD n.val = decide (n.val = 0) := by decide
    exact this ⟨i, hi⟩
  simp only [BitVec.getLsbD_and, BitVec.getLsbD_or, BitVec.getLsbD_append, hm, ho, h1, BitVec.getLsbD_shiftLeft]
  have hcases : i = 0 ∨ (1 ≤ i ∧ i < 40) ∨ 40 ≤ i := by omega
  rcases hcases with rfl | ⟨h1, h2⟩ | h
  · simp
  · have h0 : i ≠ 0 := by omega
    have h40 : ¬ 40 ≤ i := by omega
    simp [h0, h2]
  · have h0 : i ≠ 0 := by omega
    have h8 : ¬ i < 8 := by omega
    have h40 : ¬ i < 40 := by omega
    have h32 : ¬ i - 8 < 32 := by omega
    simp [h, h0, h8, h40, h32, show i - 8 - 32 = i - 40 by omega]

/-- A frame whose argument is an operand matches the row that fixes its first byte and stop bit. -/
theorem frame_row (idx : BitVec 6) (arg : Word) :
    (frameWord idx arg).toNat &&& 0xFF0000000001 = ((frameByte0 idx ++ 0#40) ||| 1#48).toNat := by
  rw [← frame_fixed idx arg, BitVec.toNat_and]
  rfl

theorem init : Statement .init := ⟨rfl, by decide +kernel⟩
theorem read : Statement .read := ⟨rfl, by decide +kernel⟩
theorem write (data : Byte) : Statement (.write data) := by
  refine ⟨rfl, ?_⟩
  revert data
  decide +kernel
theorem erase : Statement .erase := ⟨rfl, by decide +kernel⟩
theorem getStatus : Statement .getStatus := ⟨rfl, by decide +kernel⟩
theorem goIdle : Statement .goIdle := ⟨rfl, by decide +kernel⟩
theorem ifCond : Statement .ifCond := ⟨rfl, by decide +kernel⟩
theorem appPrefix : Statement .appPrefix := ⟨rfl, by decide +kernel⟩
theorem initOp (arg : Word) : Statement (.initOp arg) := ⟨rfl, frame_row idxInitOp arg⟩
theorem readOcr : Statement .readOcr := ⟨rfl, by decide +kernel⟩
theorem setBlocklen : Statement .setBlocklen := ⟨rfl, by decide +kernel⟩
theorem readCid : Statement .readCid := ⟨rfl, by decide +kernel⟩
theorem readCsd : Statement .readCsd := ⟨rfl, by decide +kernel⟩
theorem readBlock (arg : Word) : Statement (.readBlock arg) := ⟨rfl, frame_row idxReadBlock arg⟩
theorem writeBlock (arg : Word) : Statement (.writeBlock arg) := ⟨rfl, frame_row idxWriteBlock arg⟩
theorem sendStatus : Statement .sendStatus := ⟨rfl, by decide +kernel⟩

end MatchesTable

end Sys2Proof.Laws
end

