-- ==== Sys2Proof/Laws/Record.lean ====
section
/-! SUPPORT. What the NV record operations do, each said once (spec 45_position_record.md). -/

namespace Sys2Proof.Machine

/-- The record's 25 addresses are distinct: NV_ADDR_BITS is at least 5 (R6, R64). -/
theorem nvAddr_inj {p : Params} {i j : Nat} (hi : i < 32) (hj : j < 32) (h : nvAddr p i = nvAddr p j) : i = j := by
  have hp : (32 : Nat) ∣ 2 ^ p.nvAddrBits := by
    have : p.nvAddrBits = 5 + p.nvExtraBits := rfl
    rw [this, Nat.pow_add]
    exact Dvd.intro _ rfl
  have h2 : (p.nvBase + i) % 32 = (p.nvBase + j) % 32 := by
    have := congrArg (· % 32) h
    simpa only [nvAddr, Nat.mod_mod_of_dvd _ hp] using this
  omega

theorem nvAddr_lt (p : Params) (i : Nat) : nvAddr p i < 2 ^ p.nvAddrBits :=
  Nat.mod_lt _ (Nat.two_pow_pos _)

/-- The NV store after the bytes `img[i]` are written in an order. -/
def imageStore (p : Params) (order : List Nat) (img : List Byte) (m : Memory) : Memory :=
  order.foldl (fun m i => Memory.write m (nvAddr p i) (img.getD i 0)) m

/-- The events of writing the bytes `img[i]` in an order. -/
def imageEvents (p : Params) (order : List Nat) (img : List Byte) : List Event :=
  order.map fun i => Event.nvWrite (nvAddr p i) (img.getD i 0)

/-- Everything writing a record image does: the bytes and one event each, in the order given (R309). -/
theorem nvWriteImage_eq (order : List Nat) (img : List Byte) (s : State) :
    nvWriteImage order img s =
      { s with nv := imageStore s.cfg order img s.nv, events := s.events ++ imageEvents s.cfg order img } := by
  induction order generalizing s with
  | nil => simp [nvWriteImage, imageStore, imageEvents]
  | cons i order ih =>
    have h : nvWriteImage (i :: order) img s = nvWriteImage order img (nvWriteByte i (img.getD i 0) s) := rfl
    rw [h, ih]
    simp [nvWriteByte, emit, imageStore, imageEvents]

/-- An address outside the bytes written reads as before. -/
theorem read_imageStore_other {p : Params} {order : List Nat} {img : List Byte} {m : Memory} {a : Nat}
    (h : ∀ i ∈ order, a ≠ nvAddr p i) : Memory.read (imageStore p order img m) a = Memory.read m a := by
  induction order generalizing m with
  | nil => rfl
  | cons i order ih =>
    have hs : imageStore p (i :: order) img m = imageStore p order img (Memory.write m (nvAddr p i) (img.getD i 0)) :=
      rfl
    rw [hs, ih fun j hj => h j (List.mem_cons_of_mem _ hj)]
    exact Memory.read_write_other m _ (h i List.mem_cons_self)

/-- Writing record bytes keeps the canonical form. -/
theorem wf_imageStore {p : Params} {order : List Nat} {img : List Byte} {m : Memory} (h : Memory.wf m = true) :
    Memory.wf (imageStore p order img m) = true := by
  induction order generalizing m with
  | nil => exact h
  | cons i order ih => exact ih (Memory.wf_write h _ _)

/-- A record byte that is written reads as the image's. -/
theorem read_imageStore_same {p : Params} {order : List Nat} {img : List Byte} {m : Memory} {i : Nat}
    (hm : Memory.wf m = true) (hi : i ∈ order) (hb : ∀ j ∈ order, j < 32) :
    Memory.read (imageStore p order img m) (nvAddr p i) = img.getD i 0 := by
  induction order generalizing m with
  | nil => simp at hi
  | cons j order ih =>
    have hs : imageStore p (j :: order) img m = imageStore p order img (Memory.write m (nvAddr p j) (img.getD j 0)) :=
      rfl
    rw [hs]
    by_cases hin : i ∈ order
    · exact ih (Memory.wf_write hm _ _) hin fun k hk => hb k (List.mem_cons_of_mem _ hk)
    · have hij : i = j := by simpa [hin] using hi
      rw [read_imageStore_other fun k hk hne => ?_, hij, Memory.read_write_same hm]
      exact hin (nvAddr_inj (hb i hi) (hb k (List.mem_cons_of_mem _ hk)) hne ▸ hk)

/-- Everything PERSIST's body does (R309). -/
theorem persistWith_eq (tag : List Byte) (s : State) :
    persistWith tag s =
      { s with
        crc7 := chk s.wrCursor
        nv := imageStore s.cfg persistOrder (recordImage tag s.rdCursor s.wrCursor) s.nv
        events := s.events ++ imageEvents s.cfg persistOrder (recordImage tag s.rdCursor s.wrCursor) } := by
  unfold persistWith
  rw [nvWriteImage_eq]

/-- PERSIST completes exactly when CID has been written (R34, R309). -/
theorem persist_ok {s : State} (h : s.cidWritten = true) : persist s = .ok (persistWith (idTag s.cid) s) := by
  simp [persist, h]

/-- Everything PERSIST can do. -/
theorem persist_cases {s t : State} (h : persist s = .ok t) :
    s.cidWritten = true ∧ t = persistWith (idTag s.cid) s := by
  unfold persist at h
  split at h
  · exact ⟨‹_›, by injection h with h; exact h.symm⟩
  · cases h

/-- Record bytes read in ascending order: their values, and one event each (R303). -/
theorem nvReadFrom_eq (i n : Nat) (s : State) :
    nvReadFrom i n s =
      ((List.range' i n).map (fun j => Memory.read s.nv (nvAddr s.cfg j)),
        { s with events := s.events ++
            (List.range' i n).map fun j => Event.nvRead (nvAddr s.cfg j) (Memory.read s.nv (nvAddr s.cfg j)) }) := by
  induction n generalizing i s with
  | zero => simp [nvReadFrom]
  | succ n ih => simp [nvReadFrom, nvReadByte, ih, emit, List.range'_succ]

/-- The five ways RESOLVE ends (R305). -/
theorem resolve_cases (a b : Copy) :
    (a.valid = false ∧ b.valid = false ∧ resolve a b = (0, false)) ∨
    (a.valid = false ∧ b.valid = true ∧ resolve a b = (b.value, true)) ∨
    (a.valid = true ∧ b.valid = true ∧ b.value = a.value + 1 ∧ a.value ≠ b.value ∧ resolve a b = (b.value, true)) ∨
    (a.valid = true ∧ (b.valid = false ∨ a.value = b.value ∨ b.value ≠ a.value + 1) ∧
      resolve a b = (a.value, true)) := by
  cases ha : a.valid
  · cases hb : b.valid
    · exact .inl ⟨rfl, rfl, by simp [resolve, ha, hb]⟩
    · exact .inr (.inl ⟨rfl, rfl, by simp [resolve, ha, hb]⟩)
  · cases hb : b.valid
    · exact .inr (.inr (.inr ⟨rfl, .inl rfl, by simp [resolve, ha, hb]⟩))
    · by_cases h1 : a.value = b.value
      · exact .inr (.inr (.inr ⟨rfl, .inr (.inl h1), by unfold resolve; rw [if_pos ⟨ha, hb, h1⟩]⟩))
      · by_cases h2 : b.value = a.value + 1
        · exact .inr (.inr (.inl ⟨rfl, rfl, h2, h1, by
            unfold resolve; rw [if_neg fun h => h1 h.2.2, if_pos ⟨ha, hb, h2⟩]⟩))
        · exact .inr (.inr (.inr ⟨rfl, .inr (.inr h2), by
            unfold resolve; rw [if_neg fun h => h1 h.2.2, if_neg fun h => h2 h.2.2, if_pos ⟨ha, hb⟩]⟩))

end Sys2Proof.Machine
end

