-- ==== Sys2Proof/Laws/Streaming.lean ====
section
/-! SUPPORT. What the streaming procedures do, each said once (spec 44_streaming.md). -/

namespace Sys2Proof.Machine

/-- The two outcomes of a page read's end: it completes once CID has been written (R263). -/
theorem readPageEnd_spec {s : State} (h : s.cidWritten = true) :
    ∃ m, PollEnds readyByte busyPolls (fun n => reply s (3 + n)) m ∧
      readPageEnd s = .ok (persistWith (idTag s.cid)
        { afterReadClose m s with
          mode := .idle, offset := 0, rdCursor := advance s.totalPages s.rdCursor }) := by
  obtain ⟨m, hm, hc⟩ := readBlockClose_spec s
  refine ⟨m, hm, ?_⟩
  unfold readPageEnd
  rw [hc]
  exact persist_ok (s := { afterReadClose m s with
    mode := .idle, offset := 0, rdCursor := advance s.totalPages s.rdCursor }) h

/-- The end of a page write (R265): an accepted page advances and persists, a rejected one does neither. -/
theorem writePageEnd_spec {s : State} (h : s.cidWritten = true) :
    writePageEnd s = .ok
      (if dataAccepted (reply s 2) then
        persistWith (idTag s.cid)
          { afterWriteClose s with mode := .idle, offset := 0, wrCursor := advance s.totalPages s.wrCursor }
       else { afterWriteClose s with mode := .idle, offset := 0 }) := by
  unfold writePageEnd
  rw [writeBlockClose_eq]
  by_cases hd : dataAccepted (reply s 2) = true
  · simp only [hd, if_true]
    exact persist_ok (s := { afterWriteClose s with
      mode := .idle, offset := 0, wrCursor := advance s.totalPages s.wrCursor }) h
  · simp only [hd]
    rfl

/-- One byte read inside a page (R262). -/
theorem readStep_inside {s : State} (h : (s.offset + 1).toNat ≠ pageBytes) :
    readStep s = .ok (reply s 0, { afterReceive 1 s with offset := s.offset + 1 }) := by
  unfold readStep
  rw [rxPayload_eq]
  have ho : (afterReceive 1 s).offset = s.offset := rfl
  simp only [ho, h, if_false]

/-- One byte written inside a page (R264). -/
theorem writeStep_inside {s : State} (v : Byte) (h : (s.offset + 1).toNat ≠ pageBytes) :
    writeStep v s = .ok { afterTransmit [v] s with offset := s.offset + 1 } := by
  unfold writeStep
  rw [txPayload_eq]
  have ho : (afterTransmit [v] s).offset = s.offset := rfl
  simp only [ho, h, if_false]

/-- The last byte read of a page, and its end (R262, R263). -/
theorem readStep_last {s t : State} (h : (s.offset + 1).toNat = pageBytes)
    (he : readPageEnd { afterReceive 1 s with offset := s.offset + 1 } = .ok t) :
    readStep s = .ok (reply s 0, t) := by
  unfold readStep
  rw [rxPayload_eq]
  have ho : (afterReceive 1 s).offset = s.offset := rfl
  simp only [ho, h, if_true, he]

/-- The last byte written of a page, and its end (R264, R265). -/
theorem writeStep_last {s : State} (v : Byte) (h : (s.offset + 1).toNat = pageBytes) :
    writeStep v s = writePageEnd { afterTransmit [v] s with offset := s.offset + 1 } := by
  unfold writeStep
  rw [txPayload_eq]
  have ho : (afterTransmit [v] s).offset = s.offset := rfl
  simp only [ho, h, if_true]

theorem completeWrite_done {s : State} (h : s.mode ≠ .midWrite) (n : Nat) : completeWrite n s = .ok s := by
  cases n <;> simp [completeWrite, h]

theorem completeRead_done {s : State} (h : s.mode ≠ .midRead) (n : Nat) : completeRead n s = .ok s := by
  cases n <;> simp [completeRead, h]

/-- Completing an open write page pads it with zero bytes to the boundary and ends it there (R266). -/
theorem completeWrite_spec {n : Nat} {s : State} (hm : s.mode = .midWrite) (ho : s.offset.toNat < 512)
    (hn : 512 - s.offset.toNat ≤ n) (hc : s.cidWritten = true) :
    completeWrite n s =
      writePageEnd { afterTransmit (List.replicate (512 - s.offset.toNat) 0x00) s with offset := 512 } := by
  induction n generalizing s with
  | zero => omega
  | succ n ih =>
    have h1 : (s.offset + 1).toNat = s.offset.toNat + 1 := by
      rw [BitVec.toNat_add]
      simp
      omega
    simp only [completeWrite, hm, if_true]
    by_cases hl : s.offset.toNat = 511
    · have hoff : s.offset + 1 = 512 := by
        apply BitVec.eq_of_toNat_eq
        rw [h1, hl]
        rfl
      rw [writeStep_last _ (by rw [h1, hl]; rfl), hoff, hl, show List.replicate (512 - 511) (0x00 : Byte) = [0x00] from rfl]
      rw [writePageEnd_spec (s := { afterTransmit [0x00] s with offset := 512 }) hc]
      dsimp only
      rw [completeWrite_done ?_]
      split
      · rw [persistWith_eq]
        simp
      · simp
    · rw [writeStep_inside _ (by rw [h1]; unfold pageBytes; omega)]
      dsimp only
      rw [ih (s := { afterTransmit [0x00] s with offset := s.offset + 1 }) hm (by dsimp only; omega)
        (by dsimp only; omega) hc]
      dsimp only
      have hx : afterTransmit (List.replicate (512 - (s.offset + 1).toNat) 0x00)
          { afterTransmit [0x00] s with offset := s.offset + 1 } =
          { afterTransmit (List.replicate (512 - (s.offset + 1).toNat) 0x00) (afterTransmit [0x00] s) with
            offset := s.offset + 1 } := rfl
      have hlist : ([0x00] : List Byte) ++ List.replicate (512 - (s.offset + 1).toNat) 0x00
          = List.replicate (512 - s.offset.toNat) 0x00 := by
        rw [show 512 - s.offset.toNat = (512 - (s.offset + 1).toNat) + 1 by omega, List.replicate_succ]
        rfl
      rw [hx, afterTransmit_afterTransmit, hlist]

/-- Completing an open read page reads and discards its rest and ends it (R266). -/
theorem completeRead_spec {n : Nat} {s : State} (hm : s.mode = .midRead) (ho : s.offset.toNat < 512)
    (hn : 512 - s.offset.toNat ≤ n) (hc : s.cidWritten = true) :
    completeRead n s =
      readPageEnd { afterReceive (512 - s.offset.toNat) s with offset := 512 } := by
  induction n generalizing s with
  | zero => omega
  | succ n ih =>
    have h1 : (s.offset + 1).toNat = s.offset.toNat + 1 := by
      rw [BitVec.toNat_add]
      simp
      omega
    simp only [completeRead, hm, if_true]
    by_cases hl : s.offset.toNat = 511
    · have hoff : s.offset + 1 = 512 := by
        apply BitVec.eq_of_toNat_eq
        rw [h1, hl]
        rfl
      obtain ⟨m, -, he⟩ := readPageEnd_spec (s := { afterReceive 1 s with offset := 512 }) hc
      rw [readStep_last (by rw [h1, hl]; rfl) (by rw [hoff]; exact he), hl, show 512 - 511 = 1 from rfl, he]
      dsimp only
      rw [completeRead_done]
      rw [persistWith_eq]
      simp
    · rw [readStep_inside (by rw [h1]; unfold pageBytes; omega)]
      dsimp only
      rw [ih (s := { afterReceive 1 s with offset := s.offset + 1 }) hm (by dsimp only; omega)
        (by dsimp only; omega) hc]
      dsimp only
      have hx : afterReceive (512 - (s.offset + 1).toNat) { afterReceive 1 s with offset := s.offset + 1 } =
          { afterReceive (512 - (s.offset + 1).toNat) (afterReceive 1 s) with offset := s.offset + 1 } := rfl
      rw [hx, afterReceive_afterReceive, show 1 + (512 - (s.offset + 1).toNat) = 512 - s.offset.toNat by omega]

/-- FORCE_COMPLETE with no page open does nothing (R266). -/
theorem forceComplete_idle {s : State} (h : s.mode = .idle) : forceComplete s = .ok s := by
  unfold forceComplete
  rw [completeWrite_done (by simp [h])]
  exact completeRead_done (by simp [h]) _

/-- FORCE_COMPLETE of an open write page (R266). -/
theorem forceComplete_write {s : State} (hm : s.mode = .midWrite) (ho : s.offset.toNat < 512)
    (hc : s.cidWritten = true) :
    forceComplete s =
      writePageEnd { afterTransmit (List.replicate (512 - s.offset.toNat) 0x00) s with offset := 512 } := by
  unfold forceComplete
  rw [completeWrite_spec hm ho (by unfold completionRounds; omega) hc,
    writePageEnd_spec
      (s := { afterTransmit (List.replicate (512 - s.offset.toNat) 0x00) s with offset := 512 }) hc]
  dsimp only
  rw [completeRead_done]
  split
  · rw [persistWith_eq]
    simp
  · simp

/-- FORCE_COMPLETE of an open read page (R266). -/
theorem forceComplete_read {s : State} (hm : s.mode = .midRead) (ho : s.offset.toNat < 512)
    (hc : s.cidWritten = true) :
    forceComplete s = readPageEnd { afterReceive (512 - s.offset.toNat) s with offset := 512 } := by
  unfold forceComplete
  rw [completeWrite_done (by simp [hm])]
  exact completeRead_spec hm ho (by unfold completionRounds; omega) hc

/-- OFFSET short of the page boundary after one more byte (R262, R264). -/
theorem offset_inside {o : BitVec 10} (h : o ≠ 511) : (o + 1).toNat ≠ pageBytes := by
  intro e
  apply h
  apply BitVec.eq_of_toNat_eq
  unfold pageBytes at e
  simp [BitVec.toNat_add] at e ⊢
  omega

/-- Everything READ_OPEN_PAGE can do (R261). -/
theorem readOpenPage_spec (s : State) :
    ∃ k j, NcrEnds k s ∧ PollEnds isToken tokenPolls (fun n => reply s (6 + k + n)) j ∧
      readOpenPage s = afterReadOpenPage k j s := by
  obtain ⟨k, j, hk, hj, e⟩ := readBlockOpen_spec idxReadBlock (pageArg s.capacity s.rdCursor) s
  refine ⟨k, j, hk, hj, ?_⟩
  unfold readOpenPage
  rw [e]
  rfl

theorem reply_afterReadOpenPage (k j n : Nat) (s : State) :
    reply (afterReadOpenPage k j s) n = reply s (6 + k + j + n) := by
  have h := reply_exchanged (List.replicate j idleByte)
    (afterSend idxReadBlock (pageArg s.capacity s.rdCursor) .r1 true k s) n
  rw [List.length_replicate, reply_afterSend_keep, ← Nat.add_assoc] at h
  exact h

/-- Everything WRITE_OPEN_PAGE can do (R267). -/
theorem writeOpenPage_spec (s : State) : ∃ k, NcrEnds k s ∧ writeOpenPage s = afterWriteOpenPage k s := by
  obtain ⟨k, hk, e⟩ := writeBlockOpen_spec (pageArg s.capacity s.wrCursor) s
  refine ⟨k, hk, ?_⟩
  unfold writeOpenPage
  rw [e]
  rfl

/-- FORCE_COMPLETE of an open write page leaves `afterWritePad` (R266). -/
theorem forceComplete_pad {s : State} (hm : s.mode = .midWrite) (ho : s.offset.toNat < 512)
    (hc : s.cidWritten = true) : forceComplete s = .ok (afterWritePad s) := by
  rw [forceComplete_write hm ho hc,
    writePageEnd_spec (s := { afterTransmit (List.replicate (512 - s.offset.toNat) 0) s with offset := 512 }) hc]
  rfl

/-- FORCE_COMPLETE of an open read page leaves `afterReadDiscard` of the busy polls it makes (R266). -/
theorem forceComplete_discard {s : State} (hm : s.mode = .midRead) (ho : s.offset.toNat < 512)
    (hc : s.cidWritten = true) :
    ∃ m, PollEnds readyByte busyPolls (fun n => reply s (512 - s.offset.toNat + 3 + n)) m ∧
      forceComplete s = .ok (afterReadDiscard m s) := by
  obtain ⟨m, h, e⟩ := readPageEnd_spec (s := { afterReceive (512 - s.offset.toNat) s with offset := 512 }) hc
  refine ⟨m, ?_, ?_⟩
  · have hf : (fun n => reply s (512 - s.offset.toNat + 3 + n)) =
        fun n => reply (afterReceive (512 - s.offset.toNat) s) (3 + n) := by
      funext n
      rw [reply_afterReceive, Nat.add_assoc]
    rw [hf]
    exact h
  · rw [forceComplete_read hm ho hc, e]
    rfl

theorem afterWritePad_mode (s : State) : (afterWritePad s).mode = .idle := by
  unfold afterWritePad afterWriteEnd
  split
  · rw [persistWith_eq]
  · rfl

theorem afterReadDiscard_mode (m : Nat) (s : State) : (afterReadDiscard m s).mode = .idle := by
  unfold afterReadDiscard afterReadEnd
  rw [persistWith_eq]

end Sys2Proof.Machine
end

