-- ==== Sys2Proof/Laws/Trace.lean ====
section
/-! SUPPORT. What every operation does to the outside world, said once: the events it adds account for the NV store, for
the card's replies and for the draws, and nothing else outside the block changes. -/

namespace Sys2Proof.Machine

/-- `t` is `s` after some procedure of the block ran: the events added account for all that happened outside. -/
def Ran (s t : State) : Prop :=
  ∃ new, t.events = s.events ++ new ∧ t.nv = new.foldl nvApply s.nv ∧
    t.draws = s.draws + (new.filter Event.isXchg).length ∧ t.card = s.card.drop (new.filter Event.isXchg).length ∧
    (∀ e ∈ new, EventInRecord s.cfg e) ∧ t.cfg = s.cfg ∧ t.power = s.power ∧ t.inbox = s.inbox

/-- The fields of the state that belong to the outside world. -/
structure Outside where
  events : List Event
  nv : Memory
  draws : Nat
  card : List Byte
  cfg : Params
  power : Option PowerCut
  inbox : List HostWord

/-- What the outside world holds in a state. -/
def State.outside (s : State) : Outside := ⟨s.events, s.nv, s.draws, s.card, s.cfg, s.power, s.inbox⟩

/-- `Ran` is about the outside fields only. -/
theorem Ran.congr {s s' t t' : State} (h : Ran s t) (hs : s'.outside = s.outside) (ht : t'.outside = t.outside) :
    Ran s' t' := by
  simp only [State.outside, Outside.mk.injEq] at hs ht
  obtain ⟨a1, a2, a3, a4, a5, a6, a7⟩ := hs
  obtain ⟨b1, b2, b3, b4, b5, b6, b7⟩ := ht
  unfold Ran
  rw [a1, a2, a3, a4, a5, a6, a7, b1, b2, b3, b4, b5, b6, b7]
  exact h

/-- Register writes after a procedure do not show outside. -/
theorem Ran.post {s t t' : State} (h : Ran s t) (ht : t'.outside = t.outside := by rfl) : Ran s t' := h.congr rfl ht

/-- Register writes before a procedure do not show outside. -/
theorem Ran.pre {s s' t : State} (h : Ran s' t) (hs : s.outside = s'.outside := by rfl) : Ran s t := h.congr hs rfl

theorem Ran.refl (s : State) : Ran s s := ⟨[], by simp⟩

theorem Ran.trans {s t u : State} (h : Ran s t) (h' : Ran t u) : Ran s u := by
  obtain ⟨n, e1, e2, e3, e4, e5, e6, e7, e8⟩ := h
  obtain ⟨m, f1, f2, f3, f4, f5, f6, f7, f8⟩ := h'
  refine ⟨n ++ m, ?_, ?_, ?_, ?_, ?_, f6.trans e6, f7.trans e7, f8.trans e8⟩
  · rw [f1, e1, List.append_assoc]
  · rw [f2, e2, List.foldl_append]
  · rw [f3, e3, List.filter_append, List.length_append, Nat.add_assoc]
  · rw [f4, e4, List.filter_append, List.length_append, List.drop_drop]
  · intro e he
    rcases List.mem_append.mp he with he | he
    · exact e5 e he
    · exact e6 ▸ f5 e he

/-- A select, release, clock or delay event. -/
theorem ran_emit {e : Event} (s : State) (hx : e.isXchg = false) (hn : ∀ m, nvApply m e = m)
    (hr : EventInRecord s.cfg e) : Ran s (emit e s) :=
  ⟨[e], rfl, by simp [hn], by simp [hx], by simp [hx], by simpa using hr, rfl, rfl, rfl⟩

theorem ran_select (s : State) : Ran s (select s) := ran_emit s rfl (fun _ => rfl) trivial

theorem ran_release (s : State) : Ran s (release s) := ran_emit s rfl (fun _ => rfl) trivial

theorem ran_setClock (r : Rate) (s : State) : Ran s (setClock r s) := ran_emit s rfl (fun _ => rfl) trivial

theorem ran_delay (d : Duration) (s : State) : Ran s (delay d s) := ran_emit s rfl (fun _ => rfl) trivial

theorem ran_sendByte (o : Byte) (s : State) : Ran s (sendByte o s) :=
  ⟨[.xchg o (cardReply s)], rfl, rfl, rfl, by rw [show ([Event.xchg o (cardReply s)].filter Event.isXchg).length = 1 from rfl, List.drop_one]; rfl,
    by simp [EventInRecord], rfl, rfl, rfl⟩

theorem ran_exchanged (os : List Byte) (s : State) : Ran s (exchanged os s) := by
  induction os generalizing s with
  | nil => rw [exchanged_nil]; exact Ran.refl s
  | cons o os ih =>
    have h : exchanged (o :: os) s = exchanged os (sendByte o s) := by
      rw [sendByte_eq, exchanged_exchanged]; rfl
    rw [h]
    exact (ran_sendByte o s).trans (ih _)

theorem ran_ncrWait (s : State) : Ran s (ncrWait s) := by
  obtain ⟨k, -, h⟩ := ncrWait_eq s
  rw [h]
  exact (ran_exchanged _ s).post

theorem ran_busyWait (n : Nat) (s : State) (hn : 0 < n) : Ran s (busyWait n s) := by
  obtain ⟨k, -, h⟩ := busyWait_eq n s hn
  rw [h]
  exact (ran_exchanged _ s).post

theorem ran_sendFrame (idx : BitVec 6) (arg : Word) (s : State) : Ran s (sendFrame idx arg s) := by
  rw [sendFrame_eq]
  exact ((ran_select s).trans (ran_exchanged _ _)).post

theorem ran_responseTail (shape : Shape) (s : State) : Ran s (responseTail shape s) := by
  cases shape
  · exact Ran.refl s
  · exact ran_busyWait _ s (by decide)
  · exact (ran_sendByte idleByte s).post
  · simp only [responseTail, recvBytes_eq]; exact (ran_exchanged _ s).post
  · simp only [responseTail, recvBytes_eq]; exact (ran_exchanged _ s).post

theorem ran_send (idx : BitVec 6) (arg : Word) (shape : Shape) (keep : Bool) (s : State) :
    Ran s (send idx arg shape keep s) := by
  have h1 : Ran s (ncrWait (sendFrame idx arg s)) := (ran_sendFrame idx arg s).trans (ran_ncrWait _)
  unfold send
  dsimp only
  have h2 : Ran s (if !(ncrWait (sendFrame idx arg s)).flags.cmdTimeout || (ncrWait (sendFrame idx arg s)).cfg.tailOnTimeout
      then responseTail shape (ncrWait (sendFrame idx arg s)) else ncrWait (sendFrame idx arg s)) := by
    split
    · exact h1.trans (ran_responseTail _ _)
    · exact h1
  cases keep
  · exact h2.trans (ran_release _)
  · exact h2

theorem ran_tokenWait (s : State) : Ran s (tokenWait s) := by
  obtain ⟨j, -, h⟩ := tokenWait_eq s
  rw [h]
  exact (ran_exchanged _ s).post

theorem ran_readBlockOpen (idx : BitVec 6) (arg : Word) (s : State) : Ran s (readBlockOpen idx arg s) := by
  unfold readBlockOpen
  exact ((ran_send idx arg .r1 true s).trans (ran_tokenWait _)).post

theorem ran_afterReceive (n : Nat) (s : State) : Ran s (afterReceive n s) := (ran_exchanged _ s).post

theorem ran_afterTransmit (vs : List Byte) (s : State) : Ran s (afterTransmit vs s) := (ran_exchanged _ s).post

theorem ran_readBlockClose (s : State) : Ran s (readBlockClose s) := by
  obtain ⟨m, -, h⟩ := readBlockClose_spec s
  rw [h]
  exact ((ran_exchanged (List.replicate (3 + m) idleByte) s).trans (ran_release _)).post

theorem ran_writeBlockOpen (arg : Word) (s : State) : Ran s (writeBlockOpen arg s) := by
  unfold writeBlockOpen
  exact ((ran_send idxWriteBlock arg .r1 true s).trans (ran_sendByte startToken _)).post

theorem ran_writeBlockClose (s : State) : Ran s (writeBlockClose s).2 := by
  rw [writeBlockClose_eq]
  exact ((ran_exchanged [s.crc16.extractLsb' 8 8, s.crc16.extractLsb' 0 8, idleByte] s).trans (ran_release _)).post

theorem ran_readDescriptorBytes (idx : BitVec 6) (s : State) : Ran s (readDescriptorBytes idx s).2 := by
  unfold readDescriptorBytes
  rw [rxPayloads_eq]
  exact ((ran_readBlockOpen idx 0 s).trans (ran_afterReceive _ _)).trans (ran_readBlockClose _)

theorem ran_readCidDescriptor (s : State) : Ran s (readCidDescriptor s) := by
  have h := ran_readDescriptorBytes idxReadCid s
  unfold readCidDescriptor
  generalize readDescriptorBytes idxReadCid s = y at h ⊢
  exact h.post

theorem ran_readCsdDescriptor (s : State) : Ran s (readCsdDescriptor s) := by
  have h := ran_readDescriptorBytes idxReadCsd s
  unfold readCsdDescriptor
  generalize readDescriptorBytes idxReadCsd s = y at h ⊢
  exact h.post

theorem ran_nvReadByte (i : Nat) (s : State) (hi : i < recordBytes) : Ran s (nvReadByte i s).2 :=
  ran_emit s rfl (fun _ => rfl) ⟨i, hi, rfl⟩

theorem ran_nvWriteByte (i : Nat) (v : Byte) (s : State) (hi : i < recordBytes) : Ran s (nvWriteByte i v s) :=
  ⟨[.nvWrite (nvAddr s.cfg i) v], rfl, rfl, rfl, rfl, by simpa [EventInRecord] using ⟨i, hi, rfl⟩, rfl, rfl, rfl⟩

theorem ran_nvReadFrom (i n : Nat) (s : State) (h : i + n ≤ recordBytes) : Ran s (nvReadFrom i n s).2 := by
  induction n generalizing i s with
  | zero => exact Ran.refl s
  | succ n ih => exact (ran_nvReadByte i s (by omega)).trans (ih (i + 1) _ (by omega))

theorem ran_nvWriteImage (order : List Nat) (img : List Byte) (s : State) (h : ∀ i ∈ order, i < recordBytes) :
    Ran s (nvWriteImage order img s) := by
  induction order generalizing s with
  | nil => exact Ran.refl s
  | cons i order ih =>
    exact (ran_nvWriteByte i _ s (h i List.mem_cons_self)).trans (ih _ fun j hj => h j (List.mem_cons_of_mem _ hj))

theorem ran_persistWith (tag : List Byte) (s : State) : Ran s (persistWith tag s) := by
  unfold persistWith
  exact (ran_nvWriteImage persistOrder _ _ (by decide)).pre

theorem ran_persist {s t : State} (h : persist s = .ok t) : Ran s t := by
  obtain ⟨-, rfl⟩ := persist_cases h
  exact ran_persistWith _ s

theorem ran_recover (s : State) : Ran s (recover s) := by
  have h1 : Ran s (nvReadFrom 0 recordBytes s).2 := ran_nvReadFrom 0 recordBytes s (Nat.le_refl _)
  unfold recover
  generalize nvReadFrom 0 recordBytes s = r at h1 ⊢
  dsimp only
  split
  · unfold recoverMatch
    exact h1.post
  · unfold recoverMismatch
    dsimp only
    split
    · exact h1.trans (ran_persistWith _ _).pre
    · exact h1.trans (ran_nvWriteImage _ _ _ (by decide)).pre

theorem ran_returnWord (w : HostWord) (s : State) : Ran s (returnWord w s) := (Ran.refl s).post

theorem ran_abort (c : AbortCode) (s : State) : Ran s (abort c s) := (ran_release s).post

theorem ran_readOpenPage (s : State) : Ran s (readOpenPage s) := by
  unfold readOpenPage
  have h := ran_readBlockOpen idxReadBlock (pageArg s.capacity s.rdCursor) s
  generalize readBlockOpen idxReadBlock (pageArg s.capacity s.rdCursor) s = x at h ⊢
  exact h.post

theorem ran_writeOpenPage (s : State) : Ran s (writeOpenPage s) := by
  unfold writeOpenPage
  have h := ran_writeBlockOpen (pageArg s.capacity s.wrCursor) s
  generalize writeBlockOpen (pageArg s.capacity s.wrCursor) s = x at h ⊢
  exact h.post

theorem ran_readPageEnd {s t : State} (h : readPageEnd s = .ok t) : Ran s t := by
  unfold readPageEnd at h
  exact (ran_readBlockClose s).trans (ran_persist h).pre

theorem ran_writePageEnd {s t : State} (h : writePageEnd s = .ok t) : Ran s t := by
  unfold writePageEnd at h
  dsimp only at h
  split at h
  · exact (ran_writeBlockClose s).trans (ran_persist h).pre
  · injection h with h
    subst h
    exact (ran_writeBlockClose s).post

theorem ran_readStep {s : State} {r : Byte × State} (h : readStep s = .ok r) : Ran s r.2 := by
  unfold readStep at h
  dsimp only at h
  rw [rxPayload_eq] at h
  split at h
  · split at h
    · injection h with h
      subst h
      exact (ran_afterReceive 1 s).trans (ran_readPageEnd ‹_›).pre
    · cases h
  · injection h with h
    subst h
    exact (ran_afterReceive 1 s).post

theorem ran_writeStep {v : Byte} {s t : State} (h : writeStep v s = .ok t) : Ran s t := by
  unfold writeStep at h
  dsimp only at h
  rw [txPayload_eq] at h
  split at h
  · exact (ran_afterTransmit [v] s).trans (ran_writePageEnd h).pre
  · injection h with h
    subst h
    exact (ran_afterTransmit [v] s).post

theorem ran_completeWrite {n : Nat} {s t : State} (h : completeWrite n s = .ok t) : Ran s t := by
  induction n generalizing s with
  | zero => injection h with h; subst h; exact Ran.refl s
  | succ n ih =>
    unfold completeWrite at h
    split at h
    · split at h
      · exact (ran_writeStep ‹_›).trans (ih h)
      · cases h
    · injection h with h; subst h; exact Ran.refl s

theorem ran_completeRead {n : Nat} {s t : State} (h : completeRead n s = .ok t) : Ran s t := by
  induction n generalizing s with
  | zero => injection h with h; subst h; exact Ran.refl s
  | succ n ih =>
    unfold completeRead at h
    split at h
    · split at h
      · exact (ran_readStep ‹_›).trans (ih h)
      · cases h
    · injection h with h; subst h; exact Ran.refl s

theorem ran_forceComplete {s t : State} (h : forceComplete s = .ok t) : Ran s t := by
  unfold forceComplete at h
  split at h
  · exact (ran_completeWrite ‹_›).trans (ran_completeRead h)
  · cases h

theorem ran_readBody {s t : State} (h : readBody s = .ok t) : Ran s t := by
  unfold readBody at h
  split at h
  · cases h
  · rename_i u hu
    have h1 : Ran s u := by
      split at hu
      · exact ran_forceComplete hu
      · injection hu with hu; subst hu; exact Ran.refl s
    have h2 : Ran u (if u.mode = .idle then readOpenPage u else u) := by
      split
      · exact ran_readOpenPage u
      · exact Ran.refl u
    split at h
    · cases h
    · injection h with h
      subst h
      rename_i hs
      exact ((h1.trans h2).trans (ran_readStep hs)).post

theorem ran_writeBody {v : Byte} {s t : State} (h : writeBody v s = .ok t) : Ran s t := by
  unfold writeBody at h
  split at h
  · cases h
  · rename_i u hu
    have h1 : Ran s u := by
      split at hu
      · exact ran_forceComplete hu
      · injection hu with hu; subst hu; exact Ran.refl s
    have h2 : Ran u (if u.mode = .idle then writeOpenPage u else u) := by
      split
      · exact ran_writeOpenPage u
      · exact Ran.refl u
    split at h
    · cases h
    · injection h with h
      subst h
      rename_i hs
      exact ((h1.trans h2).trans (ran_writeStep hs)).post

theorem ran_eraseBody {s t : State} (h : eraseBody s = .ok t) : Ran s t := by
  unfold eraseBody at h
  split at h
  · cases h
  · split at h
    · cases h
    · injection h with h
      subst h
      rename_i hf _ _ hp
      exact ((ran_forceComplete hf).trans (ran_persist hp).pre).post

theorem ran_getStatusBody {s t : State} (h : getStatusBody s = .ok t) : Ran s t := by
  unfold getStatusBody at h
  split at h
  · cases h
  · injection h with h
    subst h
    exact ((ran_forceComplete ‹_›).trans (ran_send _ _ _ _ _)).post

theorem ran_initReset (s : State) : Ran s (initReset s) := (ran_release s).post

theorem ran_initIdleClocks (s : State) : Ran s (initIdleClocks s) := by
  unfold initIdleClocks
  rw [sendBytes_eq]
  exact (ran_setClock .slow s).trans (ran_exchanged _ _)

theorem ran_initRecover (s : State) : Ran s (initRecover s) := by
  unfold initRecover
  have h := ran_recover (initPageCount s)
  generalize recover (initPageCount s) = x at h ⊢
  unfold initPageCount at h
  exact h.pre.post

theorem ran_initDescriptors (s : State) : Ran s (initDescriptors s) := by
  have h1 := ran_readCidDescriptor s
  unfold initDescriptors
  dsimp only
  split
  · have h2 := h1.trans (ran_readCsdDescriptor _)
    split
    · exact h2.trans (ran_initRecover _)
    · exact h2.trans (ran_abort _ _)
  · exact h1.trans (ran_abort _ _)

theorem ran_initBlocklen (s : State) : Ran s (initBlocklen s) := by
  have h1 := ran_send idxSetBlocklen blocklenArg .r1 false s
  unfold initBlocklen
  dsimp only
  split
  · exact h1.trans (ran_initDescriptors _)
  · exact h1.trans (ran_abort _ _)

theorem ran_initOcr (s : State) : Ran s (initOcr s) := by
  have h1 := ran_send idxReadOcr 0 .r3 false s
  unfold initOcr
  dsimp only
  split
  · split
    · exact h1.trans (ran_initBlocklen _).pre
    · exact h1.trans (ran_abort _ _)
  · exact ran_initBlocklen s

theorem ran_initLoopRound (s : State) : Ran s (initLoopRound s) := by
  have h1 := ran_send idxAppPrefix 0 .r1 false s
  have h2 := h1.trans (ran_send idxInitOp (send idxAppPrefix 0 .r1 false s).initArg .r1 false _)
  unfold initLoopRound
  dsimp only
  split
  · exact h2.trans (ran_initOcr _)
  · split
    · exact h2.post
    · exact h2.trans (ran_abort _ _)

theorem ran_initEcho (s : State) : Ran s (initEcho s) := by
  unfold initEcho
  split
  · exact ran_abort _ s
  · exact ((ran_setClock .fast s).trans (ran_delay .settle _)).trans (ran_initLoopRound _)

theorem ran_initClassify (s : State) : Ran s (initClassify s) := by
  have h1 := ran_send idxIfCond ifCondArg .r7 false s
  unfold initClassify
  dsimp only
  split
  · exact h1.trans (ran_initEcho _).pre
  · exact h1.trans (ran_abort _ _)

theorem ran_initStart (s : State) : Ran s (initStart s) := by
  have h1 := ((ran_initReset s).trans (ran_initIdleClocks _)).trans (ran_send idxGoIdle 0 .r1 false _)
  unfold initStart
  dsimp only
  split
  · exact h1.trans (ran_initClassify _)
  · exact h1.trans (ran_abort _ _)

/-- An operation that completes ran in a launched state. -/
theorem whenLaunched_next {s t : State} {o : Outcome} (h : whenLaunched s o = .next t) : Launched s ∧ o = .next t := by
  unfold whenLaunched at h
  split at h
  · cases h
  · split at h
    · exact ⟨⟨‹_›, ‹_›⟩, h⟩
    · cases h

/-- A data operation that completes ran in a launched and negotiated state. -/
theorem whenUsable_next {s t : State} {o : Outcome} (h : whenUsable s o = .next t) :
    Launched s ∧ s.version ≠ .unset ∧ o = .next t := by
  obtain ⟨h1, h2⟩ := whenLaunched_next h
  split at h2
  · cases h2
  · exact ⟨h1, ‹_›, h2⟩

/-- A bare command that completes ran with no page open. -/
theorem whenNoPageOpen_next {s t : State} {o : Outcome} (h : whenNoPageOpen s o = .next t) :
    Launched s ∧ s.mode = .idle ∧ o = .next t := by
  obtain ⟨h1, h2⟩ := whenLaunched_next h
  split at h2
  · exact ⟨h1, ‹_›, h2⟩
  · cases h2

/-- A block command that completes was given some page's argument (R68). -/
theorem whenPageArg_next {arg : Word} {s t : State} {o : Outcome} (h : whenPageArg arg s o = .next t) :
    (∃ p, arg = pageArg s.capacity p) ∧ o = .next t := by
  unfold whenPageArg at h
  split at h
  · exact ⟨isPageArg_iff.1 ‹_›, h⟩
  · cases h

theorem settle_next {r : Except Fault State} {t : State} (h : settle r = .next t) : r = .ok t := by
  unfold settle at h
  split at h
  · injection h with h; rw [h]
  · cases h

/-- Every operation's effect on the outside world. -/
theorem ran_exec {i : Instr} {s t : State} (h : exec i s = .next t) : Ran s t := by
  cases i
  case init => obtain ⟨-, h⟩ := whenLaunched_next h; injection h with h; subst h; exact ran_initStart s
  case read => exact ran_readBody (settle_next (whenUsable_next h).2.2)
  case write v => exact ran_writeBody (settle_next (whenUsable_next h).2.2)
  case erase => exact ran_eraseBody (settle_next (whenUsable_next h).2.2)
  case getStatus => exact ran_getStatusBody (settle_next (whenUsable_next h).2.2)
  case goIdle => obtain ⟨-, -, h⟩ := whenNoPageOpen_next h; injection h with h; rw [← h]; exact ran_send _ _ _ _ _
  case ifCond => obtain ⟨-, -, h⟩ := whenNoPageOpen_next h; injection h with h; rw [← h]; exact ran_send _ _ _ _ _
  case appPrefix => obtain ⟨-, -, h⟩ := whenNoPageOpen_next h; injection h with h; rw [← h]; exact ran_send _ _ _ _ _
  case initOp => obtain ⟨-, -, h⟩ := whenNoPageOpen_next h; injection h with h; rw [← h]; exact ran_send _ _ _ _ _
  case readOcr => obtain ⟨-, -, h⟩ := whenNoPageOpen_next h; injection h with h; rw [← h]; exact ran_send _ _ _ _ _
  case setBlocklen => obtain ⟨-, -, h⟩ := whenNoPageOpen_next h; injection h with h; rw [← h]; exact ran_send _ _ _ _ _
  case readBlock =>
    obtain ⟨-, -, h⟩ := whenNoPageOpen_next h; obtain ⟨-, h⟩ := whenPageArg_next h; injection h with h; rw [← h]
    exact ran_send _ _ _ _ _
  case writeBlock =>
    obtain ⟨-, -, h⟩ := whenNoPageOpen_next h; obtain ⟨-, h⟩ := whenPageArg_next h; injection h with h; rw [← h]
    exact ran_send _ _ _ _ _
  case sendStatus => obtain ⟨-, -, h⟩ := whenNoPageOpen_next h; injection h with h; rw [← h]; exact ran_send _ _ _ _ _
  case readCid => obtain ⟨-, -, h⟩ := whenNoPageOpen_next h; injection h with h; rw [← h]; exact ran_readCidDescriptor s
  case readCsd => obtain ⟨-, -, h⟩ := whenNoPageOpen_next h; injection h with h; rw [← h]; exact ran_readCsdDescriptor s

end Sys2Proof.Machine
end

