-- ==== Sys2Proof/Tests/Slice0.lean ====
section
/-! SUPPORT. The model's own tests: words written out from the spec's encodings, the spec's worked examples and vectors
(spec 95_test_vectors.md), and for each statement with hypotheses a witness that meets them. -/

namespace Sys2Proof.Tests

open Sys2Proof.Machine

-- One theorem at a time: many kernel evaluations at once start a thread each, and their stacks add up.
set_option Elab.async false

/-! ## WellFormed: an ill-formed term for its one check -/

theorem test_wellFormed_refuses_other_init_argument : Instr.wellFormed (.initOp 5) = false := by decide
theorem test_wellFormed_accepts_hcs_argument : Instr.wellFormed (.initOp 0x40000000) = true := by decide

/-! ## Decoding: every constructor's word, written out from 30_encoding.md R91 and R97 and 95_test_vectors.md -/

theorem test_decode_init : decodeTableWord 16 0b0000000000000000 = some .init := by decide +kernel
theorem test_decode_read : decodeTableWord 16 0b0000000100000000 = some .read := by decide +kernel
theorem test_decode_write : decodeTableWord 16 0b0000001001000001 = some (.write 0x41) := by decide +kernel
theorem test_decode_erase : decodeTableWord 16 0b0000001100000000 = some .erase := by decide +kernel
theorem test_decode_getStatus : decodeTableWord 16 0b0000010000000000 = some .getStatus := by decide +kernel
theorem test_decode_goIdle : decodeTableWord 48 0x400000000095 = some .goIdle := by decide +kernel
theorem test_decode_ifCond : decodeTableWord 48 0x48000001AA87 = some .ifCond := by decide +kernel
theorem test_decode_appPrefix : decodeTableWord 48 0x770000000065 = some .appPrefix := by decide +kernel
theorem test_decode_initOp_v1 : decodeTableWord 48 0x6900000000E5 = some (.initOp 0) := by decide +kernel
theorem test_decode_initOp_v2 : decodeTableWord 48 0x694000000077 = some (.initOp 0x40000000) := by decide +kernel
theorem test_decode_readOcr : decodeTableWord 48 0x7A00000000FD = some .readOcr := by decide +kernel
theorem test_decode_setBlocklen : decodeTableWord 48 0x500000020015 = some .setBlocklen := by decide +kernel
theorem test_decode_readCid : decodeTableWord 48 0x4A000000001B = some .readCid := by decide +kernel
theorem test_decode_readCsd : decodeTableWord 48 0x4900000000AF = some .readCsd := by decide +kernel
theorem test_decode_readBlock : decodeTableWord 48 0x510000000271 = some (.readBlock 2) := by decide +kernel
theorem test_decode_writeBlock : decodeTableWord 48 0x580000000535 = some (.writeBlock 5) := by decide +kernel
theorem test_decode_sendStatus : decodeTableWord 48 0x4D000000000D = some .sendStatus := by decide +kernel
theorem test_encode_frame : encode (.writeBlock 5) = .frame 0x580000000535 := by decide +kernel
theorem test_encode_word : encode (.write 0xFF) = .host 0x02FF := by decide +kernel
theorem test_reserved_words :
    [0x0500, 0x0700, 0x0800, 0xF800, 0x0001, 0x0101, 0x0310, 0x04FF].map (decodeTableWord 16) =
      [none, none, none, none, none, none, none, none] := by decide +kernel
theorem test_reserved_op_name : decode (.host 0x0600) = .error .reservedOp := by decide +kernel
theorem test_reserved_bits_name : decode (.host 0x0104) = .error .reservedBits := by decide +kernel
theorem test_frame_errors :
    [decode (.frame 0x000000000095), decode (.frame 0x400000000094), decode (.frame 0x400000000097),
      decode (.frame (frameWord 63 0)), decode (.frame (frameWord 8 0))] =
    [.error .framePrefix, .error .frameStop, .error .frameCrc, .error .frameIndex, .error .frameArgument] := by
  decide +kernel

/-! ## Checksums (40_checksum.md; 45_position_record.md R302) -/

theorem test_crc7 : crc7 [0x40, 0x00, 0x00, 0x00, 0x00] = 0x4A ∧ crc7Step 0xFF 0x7F = 0x09 := by decide +kernel
theorem test_crc16 :
    crc16 [0x31, 0x32, 0x33, 0x34, 0x35, 0x36, 0x37, 0x38, 0x39] = 0x31C3 ∧ crc16Step 0xFF 0xFFFF = 0xFF00 := by
  decide +kernel
theorem test_chk : [chk 0, chk 1, chk 5, chk 0xFFF, chk 0xFFFFFFFF] = [0x00, 0x03, 0x0F, 0x3D, 0x15] := by
  decide +kernel

/-! ## States -/

/-- Fixed parameters: base 0, 32 address bits, the defaults of R6. -/
def params : Params := ⟨0, 27, true, false, false⟩

/-- After reset, with fixed parameters. -/
def fresh : State := { State.reset with cfg := params }

/-- A negotiated high-capacity card of 4096 pages, cursors 2 and 5 (the end state of program P1). -/
def ready : State :=
  { fresh with
    version := .v2, capacity := .hc, totalPages := 4096, rdCursor := 2, wrCursor := 5
    cid := descriptorOf [0x03, 0x53, 0x44, 0x53, 0x55, 0x30, 0x38, 0x47, 0x80, 0x12, 0x34, 0x56, 0x78, 0x00, 0xC6, 0x01]
    cidWritten := true, csdWritten := true }

/-- `ready` with a page open. -/
def opened (m : Mode) (offset : BitVec 10) : State := { ready with mode := m, offset := offset, sel := true }

/-- The bytes a card returns after a frame. -/
def answers (bs : List Byte) (s : State) : State := { s with card := List.replicate 6 0xFF ++ bs }

/-- The NV store that holds a record. -/
def store (img : List Byte) : Memory :=
  (List.range 25).foldl (fun m i => Memory.write m i (img.getD i 0)) []

/-- A check of the next state. -/
def ends (o : Outcome) (p : State → Bool) : Bool :=
  match o with
  | .next t => p t
  | _ => false

/-- The reason an outcome gives, if it is no next state. -/
def stopped (o : Outcome) : Option (Fault ⊕ Refusal) :=
  match o with
  | .next _ => none
  | .fault f => some (.inl f)
  | .refused r => some (.inr r)

/-- How many exchanges a state's trace holds. -/
def exchanges (s : State) : Nat := (s.events.filter Event.isXchg).length

/-- The bytes the block has driven. -/
def driven (s : State) : List Byte :=
  s.events.filterMap fun e => match e with
    | .xchg o _ => some o
    | _ => none

/-- An outcome that passes a check is a next state. -/
theorem next_of_ends {o : Outcome} {p : State → Bool} (h : ends o p = true) : ∃ t, o = .next t ∧ p t = true := by
  cases o with
  | next t => exact ⟨t, rfl, h⟩
  | fault f => cases h
  | refused r => cases h

/-! ## One step of each instruction -/

/-- R160's worked example. -/
theorem test_goIdle :
    ends (exec .goIdle (answers [0xFF, 0x01] fresh)) (fun t =>
      t.lastR1 == 0x01 && exchanges t == 8 && !t.flags.cmdTimeout && !t.sel &&
        (driven t).take 6 == [0x40, 0x00, 0x00, 0x00, 0x00, 0x95]) = true := by decide +kernel

/-- R161's worked example. -/
theorem test_ifCond :
    ends (exec .ifCond (answers [0x01, 0x00, 0x00, 0x01, 0xAA] fresh)) (fun t =>
      t.lastR1 == 0x01 && t.respPayload == 0x1AA && exchanges t == 11) = true := by decide +kernel

/-- R162's worked example. -/
theorem test_appPrefix :
    ends (exec .appPrefix (answers [0x01] fresh)) (fun t => t.lastR1 == 0x01 && exchanges t == 7) = true := by
  decide +kernel

/-- R163's frame. -/
theorem test_initOp :
    ends (exec (.initOp 0x40000000) (answers [0x00] fresh)) (fun t =>
      t.lastR1 == 0x00 && (driven t).take 6 == [0x69, 0x40, 0x00, 0x00, 0x00, 0x77]) = true := by decide +kernel

/-- R164's worked example. -/
theorem test_readOcr :
    ends (exec .readOcr (answers [0x00, 0xC0, 0xFF, 0x80, 0x00] fresh)) (fun t =>
      t.respPayload == 0xC0FF8000 && ocrCcs t.respPayload) = true := by decide +kernel

/-- R165's frame. -/
theorem test_setBlocklen :
    ends (exec .setBlocklen (answers [0x00] fresh)) (fun t =>
      (driven t).take 6 == [0x50, 0x00, 0x02, 0x00, 0x00, 0x15]) = false ∧
    ends (exec .setBlocklen (answers [0x00] fresh)) (fun t =>
      (driven t).take 6 == [0x50, 0x00, 0x00, 0x02, 0x00, 0x15]) = true := by decide +kernel

/-- 95_test_vectors.md section 5.3: the test CID and its CRC-16. -/
theorem test_readCid :
    ends (exec .readCid (answers ([0x00, 0xFE] ++ ready.cid.toList ++ [0x18, 0x82, 0xFF, 0xFF]) fresh)) (fun t =>
      t.cid == ready.cid && t.cidWritten && t.flags.rdCrcOk && t.crc16 == 0x1882 && !t.sel) = true := by decide +kernel

/-- 95_test_vectors.md section 5.3: the test CSD and its CRC-16, here with the last CRC byte wrong. -/
theorem test_readCsd :
    ends (exec .readCsd (answers [0x00, 0xFE, 0x40, 0x0E, 0x00, 0x32, 0x5B, 0x59, 0x00, 0x00, 0x00, 0x03, 0x7F, 0x80, 0x0A,
      0x40, 0x00, 0x01, 0x4C, 0xFF, 0xFF, 0xFF] fresh)) (fun t =>
      t.csd[0] == 0x40 && t.csd[9] == 0x03 && t.csdWritten && !t.flags.rdCrcOk && t.crc16 == 0x4CFE) = true := by
  decide +kernel

/-- 41_command_framer.md R168's worked example; the card stays selected (R155). -/
theorem test_readBlock :
    ends (exec (.readBlock 5) (answers [0x00] ready)) (fun t =>
      t.sel && t.mode == .idle && (driven t).take 6 == [0x51, 0x00, 0x00, 0x00, 0x05, 0x0F]) = true := by decide +kernel

/-- R68: on a standard-capacity card a block command's argument is a multiple of 512; page 1's is R168's. -/
theorem test_readBlock_standard :
    ([511, 513, 1].map fun (a : Word) => stopped (exec (.readBlock a) (answers [0x00] fresh))) =
      [some (.inr .misalignedArgument), some (.inr .misalignedArgument), some (.inr .misalignedArgument)] ∧
    ends (exec (.readBlock 512) (answers [0x00] fresh)) (fun t =>
      (driven t).take 6 == [0x51, 0x00, 0x00, 0x02, 0x00, 0x79]) = true := by decide +kernel

/-- R169's frame, after nine polls without a response byte. -/
theorem test_writeBlock :
    ends (exec (.writeBlock 5) (answers (List.replicate 9 0xFF) ready)) (fun t =>
      t.sel && t.flags.cmdTimeout && t.lastR1 == 0xFF && exchanges t == 15 &&
        (driven t).take 6 == [0x58, 0x00, 0x00, 0x00, 0x05, 0x35]) = true := by decide +kernel

/-- 41_command_framer.md R153: the tail is clocked after a timeout. -/
theorem test_sendStatus :
    ends (exec .sendStatus (answers (List.replicate 9 0xFF ++ [0x2A]) fresh)) (fun t =>
      t.lastR1 == 0xFF && t.respB2 == 0x2A && exchanges t == 16) = true := by decide +kernel

/-- R268's worked example. -/
theorem test_read_opens :
    ends (exec .read (answers [0x00, 0xFE, 0x11] ready)) (fun t =>
      t.res == some 0x0011 && t.mode == .midRead && t.offset == 1 && t.sel &&
        (driven t).take 6 == [0x51, 0x00, 0x00, 0x00, 0x02, 0x71]) = true := by decide +kernel

/-- R263: the last byte closes the page, advances the cursor and persists; the CRC-16 received is wrong (R235). -/
theorem test_read_ends :
    ends (exec .read { opened .midRead 511 with card := [0xAB, 0x00, 0x00, 0xFF, 0xFF] }) (fun t =>
      t.res == some 0x00AB && t.mode == .idle && t.offset == 0 && t.rdCursor == 3 && !t.sel && !t.flags.rdCrcOk &&
        t.nv == store (recordImage [0x03, 0x12, 0x34, 0x56, 0x78] 3 5)) = true := by decide +kernel

/-- R269's worked example. -/
theorem test_write_opens :
    ends (exec (.write 0x41) (answers [0x00, 0xFF, 0xFF] ready)) (fun t =>
      t.res == some 0x0000 && t.mode == .midWrite && t.offset == 1 && t.crc16 == crc16Step 0x41 0 &&
        driven t == [0x58, 0x00, 0x00, 0x00, 0x05, 0x35, 0xFF, 0xFE, 0x41]) = true := by decide +kernel

/-- R265: a rejected page advances nothing and persists nothing. -/
theorem test_write_rejected :
    ends (exec (.write 0x00) { opened .midWrite 511 with card := [0xFF, 0xFF, 0xFF, 0x0B] }) (fun t =>
      t.mode == .idle && t.wrCursor == 5 && t.flags.wrReject && t.nv == [] && exchanges t == 4) = true := by
  decide +kernel

/-- R272's worked example. -/
theorem test_erase :
    ends (exec .erase ready) (fun t =>
      t.rdCursor == 5 && t.wrCursor == 5 && t.events.length == 25 && exchanges t == 0 &&
        t.nv == store (recordImage [0x03, 0x12, 0x34, 0x56, 0x78] 5 5)) = true := by decide +kernel

/-- R273's worked example. -/
theorem test_getStatus :
    ends (exec .getStatus (answers [0x00, 0x00] ready)) (fun t =>
      t.res == some 0x0000 && exchanges t == 8 && (driven t).take 6 == [0x4D, 0x00, 0x00, 0x00, 0x00, 0x0D]) = true := by
  decide +kernel

/-- Program P1's script on a card whose record is its own: INIT returns 0x0001 (csdPages is open, so no page count is
checked). -/
theorem test_init :
    ends (exec .init { fresh with
        card := version2Replies 0xC0FF8000 ready.cid ready.cid 0x18821882
        nv := store (recordImage [0x03, 0x12, 0x34, 0x56, 0x78] 2 5) }) (fun t =>
      t.version == .v2 && t.capacity == .hc && t.res == some 0x0001 && t.flagsWord == 0x0041 && t.clk == .at .fast &&
        t.card == []) = true := by decide +kernel

/-- Program P6: no card. The abort is IF_COND_FAIL, and FLAGS reads 0x2004. -/
theorem test_init_absent_card :
    ends (exec .init { fresh with card := List.replicate 100 0xFF }) (fun t =>
      t.version == .unset && t.res == some 0x0000 && t.flagsWord == 0x2004 && exchanges t == 44) = true := by
  decide +kernel

/-- 45_position_record.md R313: its six read groups. -/
theorem test_resolve :
    ([[0x06, 2, 0, 0, 0, 0x06, 2, 0, 0, 0], [0x06, 2, 0, 0, 0, 0x05, 3, 0, 0, 0], [0x05, 3, 0, 0, 0, 0x06, 2, 0, 0, 0],
      [0x06, 2, 0, 0, 0, 0x0F, 5, 0, 0, 0], [0x06, 2, 0, 0, 0, 0x00, 3, 0, 0, 0],
      [0x00, 2, 0, 0, 0, 0x00, 3, 0, 0, 0]].map fun g => resolve (copyAt g 0) (copyAt g 5)) =
      [(2, true), (3, true), (3, true), (2, true), (2, true), (0, false)] := by decide +kernel

/-- A word placed where the next step fetches is the one that runs. -/
theorem test_withFetchWord :
    stopped (step (fresh.withFetchWord 16 0x0700)) = some (.inr .reservedOp) ∧
    stopped (step (fresh.withFetchWord 16 0x0241)) = some (.inr .notInitialized) ∧
    ends (step (ready.withFetchWord 16 0x0300)) (fun t => t.rdCursor == 5) = true ∧
    ends (step ((answers [0x00, 0x00] fresh).withFetchWord 48 0x4D000000000D)) (fun t =>
      t.cmdIdx == 13 && t.seq == .ready) = true := by
  decide +kernel

/-! ## Witnesses: concrete states and operands that meet the hypotheses of the statements -/

theorem launched_fresh : Launched fresh := ⟨by decide, rfl⟩

theorem usable_ready : Usable ready := ⟨⟨by decide, rfl⟩, by decide, rfl⟩

/-- Usable states with a page open, at the offsets where the statements' clauses meet. -/
theorem usable_opened :
    ∀ m ∈ [Mode.midRead, Mode.midWrite], ∀ o ∈ [(0 : BitVec 10), 1, 510, 511, 512], Usable (opened m o) := by
  intro m hm o ho
  refine ⟨⟨?_, rfl⟩, (show Version.v2 ≠ Version.unset by decide), rfl⟩
  revert m o
  decide

theorem inv_fresh : Inv fresh where
  launch := by decide
  idleOffset := fun _ => rfl
  openOffset := fun h => absurd rfl h
  cursors := by unfold CursorsInRange; decide
  described := fun _ h => absurd rfl h
  looping := fun h => by cases h
  nvCanonical := rfl
  nvSpace := fun c h => by cases h

theorem inv_ready : Inv ready where
  launch := by decide
  idleOffset := fun _ => rfl
  openOffset := fun h => absurd rfl h
  cursors := by unfold CursorsInRange; decide
  described := fun _ _ => ⟨rfl, rfl⟩
  looping := fun h => by cases h
  nvCanonical := rfl
  nvSpace := fun c h => by cases h

theorem inv_opened : ∀ m ∈ [Mode.midRead, Mode.midWrite], ∀ o ∈ [(1 : BitVec 10), 511], Inv (opened m o) := by
  intro m hm o ho
  refine ⟨?_, ?_, ?_, ?_, fun _ _ => ⟨rfl, rfl⟩, fun h => by (cases h), rfl, fun c h => by (cases h)⟩
  · revert m o; decide
  · revert m o; decide
  · revert m o; decide
  · unfold CursorsInRange; revert m o; decide

theorem witness_DecodeOfEncode : Instr.wellFormed .init = true ∧ Instr.wellFormed (.initOp 0) = true := by decide

theorem witness_EncodeOfDecode :
    decode (.host 0x0241) = .ok (.write 0x41) ∧ decode (.frame 0x580000000535) = .ok (.writeBlock 5) := by decide +kernel

theorem witness_CommandSendsItsFrame :
    encode .goIdle = .frame 0x400000000095 ∧ ∃ t, exec .goIdle (answers [0x01] fresh) = .next t := by
  refine ⟨by decide +kernel, ?_⟩
  obtain ⟨t, ht, -⟩ := next_of_ends (p := fun _ => true)
    (show ends (exec .goIdle (answers [0x01] fresh)) (fun _ => true) = true by decide +kernel)
  exact ⟨t, ht⟩

/-- One word for each clause, at the ends of the fields' ranges. -/
theorem witness_HostWordRefusals :
    (∀ hc : HostWord, Launched { fresh with inbox := [hc] } ∧ Launched { ready with inbox := [hc] } ∧
      fresh.power = none ∧ ready.power = none) ∧
    (0x0800 : HostWord).extractLsb' 11 5 ≠ 0 ∧ (0xF800 : HostWord).extractLsb' 11 5 ≠ 0 ∧
    ((0x0500 : HostWord).extractLsb' 11 5 = 0 ∧ 5 ≤ ((0x0500 : HostWord).extractLsb' 8 3).toNat) ∧
    ((0x0700 : HostWord).extractLsb' 11 5 = 0 ∧ 5 ≤ ((0x0700 : HostWord).extractLsb' 8 3).toNat) ∧
    ((0x0401 : HostWord).extractLsb' 11 5 = 0 ∧ ((0x0401 : HostWord).extractLsb' 8 3).toNat < 5 ∧
      (0x0401 : HostWord).extractLsb' 8 3 ≠ 2 ∧ (0x0401 : HostWord).extractLsb' 0 8 ≠ 0) ∧
    (0x02FF : HostWord).extractLsb' 8 8 = 0x02 ∧ fresh.version = .unset ∧ ready.version ≠ .unset := by
  refine ⟨fun hc => ⟨⟨launched_fresh.1, rfl⟩, ⟨usable_ready.1.1, rfl⟩, rfl, rfl⟩, ?_⟩
  decide

theorem commandReady_fresh : CommandReady fresh := ⟨launched_fresh, rfl⟩

/-- R1Commands, TailCommands and DescriptorCommands: with no card reply named, with a prompt card, and with the tail
withheld after a timeout. -/
theorem witness_bareCommands :
    CommandReady fresh ∧ CommandReady (answers [0x01] fresh) ∧
    CommandReady { answers (List.replicate 9 0xFF) fresh with cfg := { params with tailOnTimeout := false } } :=
  ⟨commandReady_fresh, ⟨⟨by decide, rfl⟩, rfl⟩, ⟨⟨by decide, rfl⟩, rfl⟩⟩

/-- R1Commands' second clause: at the reset state's standard capacity, one byte past page 1's argument. -/
theorem witness_R1Commands_misaligned : ∀ q, (513 : Word) ≠ pageArg fresh.capacity q := by
  intro q h
  have h := congrArg BitVec.toNat h
  have e : (pageArg fresh.capacity q).toNat = q.toNat * 512 % 2 ^ 32 := rfl
  rw [e] at h
  have e : (513 : Word).toNat = 513 := rfl
  omega

/-- The two clauses of TailCommands: a reply at the first poll, and none in nine polls. -/
theorem witness_TailCommands_clauses :
    reply (answers [0x01] fresh) (5 + 1) ≠ 0xFF ∧
    NcrEnds 9 (answers (List.replicate 9 0xFF) fresh) ∧ reply (answers (List.replicate 9 0xFF) fresh) (5 + 9) = 0xFF := by
  refine ⟨by decide, ⟨by decide, by decide, ?_, .inr rfl⟩, by decide⟩
  have h : ∀ j : Fin 8, acceptByte (reply (answers (List.replicate 9 0xFF) fresh) (6 + j.val)) = false := by decide
  exact fun j hj => h ⟨j, by omega⟩

theorem witness_CommandInOpenPageStops :
    encode .sendStatus = .frame 0x4D000000000D ∧ Launched (opened .midRead 1) ∧ (opened .midRead 1).mode ≠ .idle :=
  ⟨by decide +kernel, ⟨by decide, rfl⟩, by decide⟩

/-- The streaming statements: their modes and the offsets at the ends of their ranges. -/
theorem witness_streaming :
    (Usable ready ∧ ready.mode = .idle) ∧
    (∀ m ∈ [Mode.midRead, Mode.midWrite], ∀ o ∈ [(0 : BitVec 10), 1, 510, 511, 512],
      Usable (opened m o) ∧ (opened m o).mode = m ∧ (opened m o).offset = o ∧
      (o ≠ 512 → (opened m o).offset.toNat < 512)) := by
  refine ⟨⟨usable_ready, rfl⟩, fun m hm o ho => ⟨usable_opened m hm o ho, rfl, rfl, ?_⟩⟩
  revert m o
  decide

theorem witness_RejectedPageIsReopened :
    Usable { opened .midWrite 511 with card := [0xFF, 0xFF, 0xFF, 0x0B] } ∧
    dataAccepted (reply { opened .midWrite 511 with card := [0xFF, 0xFF, 0xFF, 0x0B] } 3) = false :=
  ⟨⟨⟨by decide, rfl⟩, by decide, rfl⟩, by decide⟩

/-- DataOperationsKeepTheCard, DataOperationsIgnoreTheStore and DataOperationEventBounds: each operation completes from a
state of the invariant. -/
theorem witness_dataOperations :
    Inv (opened .midRead 1) ∧ Inv (opened .midWrite 1) ∧ Inv ready ∧
    (∃ t, exec .read { opened .midRead 1 with card := [0x11] } = .next t) ∧
    (∃ t, exec (.write 0x41) { opened .midWrite 1 with card := [0xFF] } = .next t) ∧
    (∃ t, exec .erase ready = .next t) ∧ (∃ t, exec .getStatus (answers [0x00, 0x00] ready) = .next t) := by
  have h1 := next_of_ends (p := fun _ => true)
    (show ends (exec .read { opened .midRead 1 with card := [0x11] }) (fun _ => true) = true by decide +kernel)
  have h2 := next_of_ends (p := fun _ => true)
    (show ends (exec (.write 0x41) { opened .midWrite 1 with card := [0xFF] }) (fun _ => true) = true by decide +kernel)
  have h3 := next_of_ends (p := fun _ => true) (show ends (exec .erase ready) (fun _ => true) = true by decide +kernel)
  have h4 := next_of_ends (p := fun _ => true)
    (show ends (exec .getStatus (answers [0x00, 0x00] ready)) (fun _ => true) = true by decide +kernel)
  exact ⟨inv_opened _ (by decide) _ (by decide), inv_opened _ (by decide) _ (by decide), inv_ready,
    ⟨_, h1.choose_spec.1⟩, ⟨_, h2.choose_spec.1⟩, ⟨_, h3.choose_spec.1⟩, ⟨_, h4.choose_spec.1⟩⟩

/-- CursorAdvance's clauses where they meet: below the last page, at it, at page count 0 and at the largest cursor. -/
theorem witness_CursorAdvance :
    (advance 4096 4094 = 4095) ∧ (advance 4096 4095 = 0) ∧ (advance 0 0 = 0) ∧ (advance 5 0xFFFFFFFF = 0) := by
  decide +kernel

/-- PersistWritesTheRecord, PersistThenRecover: a written CID and a canonical store. -/
theorem witness_persist : ready.cidWritten = true ∧ Memory.wf ready.nv = true ∧ ∃ t, persist ready = .ok t :=
  ⟨rfl, rfl, _, rfl⟩

/-- A store that holds the card's own record, with one bad checksum byte. -/
theorem witness_RecoverMatchingRecord :
    recordOf params (store ([0x03, 0x12, 0x34, 0x56, 0x78] ++ (0x06 :: le4 2) ++ (0x00 :: le4 3) ++ (0x0F :: le4 5) ++
      (0x0F :: le4 5))) =
    idTag ready.cid ++ (0x06 :: le4 2) ++ (0x00 :: le4 3) ++ (0x0F :: le4 5) ++ (0x0F :: le4 5) := by decide +kernel

/-- A blank store is another card's, for both values of the parameter. -/
theorem witness_RecoverForeignRecord :
    Memory.wf ready.nv = true ∧ (recordOf ready.cfg ready.nv).take 5 ≠ idTag ready.cid ∧
    ready.cfg.writeCursorsOnMismatch = false ∧ { params with writeCursorsOnMismatch := true } ≠ params := by
  decide +kernel

/-- CutPersistIsTolerated: a store with the old read cursor, one with the old write cursor, and cuts at both ends. -/
theorem witness_CutPersistIsTolerated :
    recordOf params (store (recordImage (idTag ready.cid) 1 5)) = recordImage (idTag ready.cid) 1 ready.wrCursor ∧
    recordOf params (store (recordImage (idTag ready.cid) 2 4)) = recordImage (idTag ready.cid) ready.rdCursor 4 ∧
    Memory.wf (store (recordImage (idTag ready.cid) 1 5)) = true ∧
    Memory.wf (store (recordImage (idTag ready.cid) 2 4)) = true ∧
    (∃ t, persist { ready with nv := store (recordImage (idTag ready.cid) 2 4) } = .ok t) ∧
    5 ≤ 5 ∧ 15 ≤ 15 ∧ 25 ≤ 25 :=
  ⟨by decide +kernel, by decide +kernel, by decide +kernel, by decide +kernel, ⟨_, rfl⟩, by decide⟩

/-- 95_test_vectors.md section 8.3: the write group after 15, 16, 20, 21 and 25 bytes of a persist that moves WR_CURSOR
from 5 to 6. -/
theorem test_cut_persist :
    ([[0x0F, 5, 0, 0, 0, 0x0F, 5, 0, 0, 0], [0x0F, 5, 0, 0, 0, 0x0A, 5, 0, 0, 0], [0x0F, 5, 0, 0, 0, 0x0A, 6, 0, 0, 0],
      [0x0A, 5, 0, 0, 0, 0x0A, 6, 0, 0, 0], [0x0A, 6, 0, 0, 0, 0x0A, 6, 0, 0, 0]].map fun g =>
        (resolve (copyAt g 0) (copyAt g 5)).1) = [5, 5, 6, 6, 6] := by decide +kernel

/-- InitNegotiatesTheVersion: a card for each clause; the abort code tells which. -/
theorem witness_InitNegotiatesTheVersion :
    Launched fresh ∧
    (([[0x00], [0x01] ++ List.replicate 6 0xFF ++ [0x01, 0x00, 0x00, 0x01, 0xAB],
        [0x01] ++ List.replicate 6 0xFF ++ [0x03] ++ [0x00, 0x00, 0x00, 0x00],
        [0x01] ++ List.replicate 6 0xFF ++ [0x00] ++ [0x00, 0x00, 0x01, 0xAA],
        [0x01] ++ List.replicate 6 0xFF ++ [0x05] ++ [0x00, 0x00, 0x00, 0x00] ++ List.replicate 6 0xFF ++ [0x01] ++
          List.replicate 6 0xFF ++ [0x04],
        [0x01] ++ List.replicate 6 0xFF ++ [0x01] ++ [0xFF, 0xFF, 0xF1, 0xAA] ++ List.replicate 6 0xFF ++ [0x01] ++
          List.replicate 6 0xFF ++ [0x05]].map fun l =>
      ends (exec .init { fresh with card := List.replicate 16 0xFF ++ l }) fun t => t.version == .unset) =
      [true, true, true, true, true, true]) ∧
    (([[0x00], [0x01] ++ List.replicate 6 0xFF ++ [0x01, 0x00, 0x00, 0x01, 0xAB],
        [0x01] ++ List.replicate 6 0xFF ++ [0x03] ++ [0x00, 0x00, 0x00, 0x00],
        [0x01] ++ List.replicate 6 0xFF ++ [0x00] ++ [0x00, 0x00, 0x01, 0xAA],
        [0x01] ++ List.replicate 6 0xFF ++ [0x05] ++ [0x00, 0x00, 0x00, 0x00] ++ List.replicate 6 0xFF ++ [0x01] ++
          List.replicate 6 0xFF ++ [0x04],
        [0x01] ++ List.replicate 6 0xFF ++ [0x01] ++ [0xFF, 0xFF, 0xF1, 0xAA] ++ List.replicate 6 0xFF ++ [0x01] ++
          List.replicate 6 0xFF ++ [0x05]].map fun l =>
      (match exec .init { fresh with card := List.replicate 16 0xFF ++ l } with
        | .next t => t.flags.abortCode.toNat
        | _ => 0)) = [1, 3, 3, 2, 4, 4]) := by
  refine ⟨launched_fresh, by decide +kernel, by decide +kernel⟩

/-- InitLoopRound's three clauses: ready, still idle, anything else. -/
theorem witness_InitLoopRound :
    ([0x00, 0x01, 0x05].map fun (r : Byte) =>
      (send idxInitOp 0 .r1 false (answers [r] fresh)).lastR1) = [0x00, 0x01, 0x05] := by decide +kernel

/-- InitCapacityAndBlockLength and InitDescriptorsAndRecovery: both versions, and both results of a descriptor read. -/
theorem witness_InitCapacityAndBlockLength :
    fresh.version ≠ .v2 ∧ ready.version = .v2 ∧
    descriptorOk (readCidDescriptor (answers ([0x00, 0xFE] ++ List.replicate 20 0x01) fresh)) = true ∧
    descriptorOk (readCidDescriptor (answers (List.replicate 300 0x01) fresh)) = false := by decide +kernel

theorem witness_InitSucceedsOnVersion2 :
    Launched { fresh with card := version2Replies 0xC0FF8000 ready.cid ready.csd 0 ++ [0x12] } ∧
    recordOf fresh.cfg (store (recordImage (idTag ready.cid) 2 5)) = recordImage (idTag ready.cid) 2 5 ∧
    (recordOf fresh.cfg fresh.nv).take 5 ≠ idTag ready.cid := by
  refine ⟨⟨by decide, rfl⟩, by decide +kernel, by decide +kernel⟩

theorem witness_InitSucceedsOnVersion1 :
    Launched { fresh with card := version1Replies 0 ready.cid ready.csd 0 ++ [0x12] } := ⟨by decide, rfl⟩

/-- A state in INIT's loop. -/
def looping (n : Nat) : State :=
  { fresh with version := .v2, initArg := hcsArg, clk := .at .fast, seq := .initLoop, card := List.replicate (14 * n) 0x01 }

theorem witness_InitOutcomes :
    (∃ t, exec .init { fresh with card := List.replicate 100 0xFF } = .next t) ∧
    (looping 1).version ≠ .unset ∧ (looping 1).flags.abortCode = 0 ∧ (looping 1).mode = .idle := by
  have h := next_of_ends (p := fun _ => true)
    (show ends (exec .init { fresh with card := List.replicate 100 0xFF }) (fun _ => true) = true by decide +kernel)
  exact ⟨⟨_, h.choose_spec.1⟩, by decide, by decide, rfl⟩

theorem inv_looping : ∀ n : Nat, Inv (looping n) := fun _ =>
  { launch := rfl
    idleOffset := fun _ => rfl
    openOffset := fun h => absurd rfl h
    cursors := ⟨rfl, rfl⟩
    described := fun h => absurd rfl h
    looping := fun _ => ⟨rfl, .inr rfl, rfl⟩
    nvCanonical := rfl
    nvSpace := fun c h => by cases h }

/-- InitLoopHasNoBound, and the first clause of InitLoopRound. -/
theorem witness_InitLoopHasNoBound :
    Inv (looping 2) ∧ (looping 2).power = none ∧ (looping 2).seq = .initLoop ∧
    (looping 2).card = List.replicate (14 * 2) 0x01 ++ [] := ⟨inv_looping 2, rfl, rfl, rfl⟩

theorem witness_InitAbandonsAnOpenPage : Launched (opened .midWrite 300) := ⟨by decide, rfl⟩

/-- StepKeepsInv, TraceAccountsForTheStep, NvOutsideTheRecordIsUntouched, WriteCrcFlagStaysClear: a step that persists. -/
theorem witness_steps :
    Inv { ready with inbox := [0x0300] } ∧ (∃ t, step { ready with inbox := [0x0300] } = .next t) ∧
    ready.power = none ∧ ¬ InRecord params 25 ∧ params.writeCrcFlagRecorded = false ∧ ready.flags.wrCrcOk = false := by
  have h := next_of_ends (p := fun _ => true)
    (show ends (step { ready with inbox := [0x0300] }) (fun _ => true) = true by decide +kernel)
  refine ⟨⟨by decide, fun _ => rfl, fun e => absurd rfl e, ?_, fun _ _ => ⟨rfl, rfl⟩, fun e => by (cases e), rfl,
    fun c e => by (cases e)⟩, ⟨_, h.choose_spec.1⟩, rfl, ?_, rfl, rfl⟩
  · unfold CursorsInRange; decide
  · rintro ⟨i, hi, he⟩
    have hb : nvAddr params i = (0 + i) % 2 ^ 32 := rfl
    rw [hb] at he
    unfold recordBytes at hi
    omega

theorem witness_InvariantStatesDoNotFault :
    Inv { opened .midRead 1 with seq := .framing 0x400000000095 } ∧
    stopped (step { opened .midRead 1 with seq := .framing 0x400000000095 }) = some (.inl .commandInOpenPage) := by
  refine ⟨⟨by decide, fun e => by (cases e), fun _ => by decide, ?_, fun _ _ => ⟨rfl, rfl⟩, fun e => by (cases e), rfl,
    fun c e => by (cases e)⟩, by decide +kernel⟩
  unfold CursorsInRange; decide

theorem witness_StepRunsTheDecodedInstruction :
    launchFault ready = none ∧ ready.power = none ∧ ready.seq = .ready ∧
    ({ ready with inbox := [0x0300] } : State).inbox = [0x0300] ∧ decode (.host 0x0300) = .ok .erase ∧
    launchFault { ready with seq := .framing 0x4D000000000D } = none ∧
    decode (.frame 0x4D000000000D) = .ok .sendStatus :=
  ⟨by decide, rfl, rfl, rfl, by decide +kernel, by decide, by decide +kernel⟩

theorem witness_FetchWordRunsNext : launchFault fresh = none ∧ decodeTableWord 16 0x0000 = some .init ∧
    decodeTableWord 48 0x400000000095 = some .goIdle := ⟨by decide, test_decode_init, test_decode_goIdle⟩

theorem witness_IdleStepWaits : Launched ready ∧ ready.power = none ∧ ready.inbox = [] := ⟨⟨by decide, rfl⟩, rfl, rfl⟩

/-- The five launch states of R42, OFFSET at the first value beyond its range, the two at INIT's loop; the loop's own state
and OFFSET = 512 are no fault. -/
theorem witness_LaunchStatesFault :
    (launchFault { ready with mode := .reserved, sel := true } = some .launchMode) ∧
    (launchFault { ready with version := .reserved } = some .launchVersion) ∧
    (launchFault { ready with offset := 513 } = some .launchOffset) ∧
    (launchFault { ready with mode := .midRead, sel := false } = some .launchDeselected) ∧
    (launchFault { fresh with mode := .midRead, sel := true } = some .launchUninitialized) ∧
    (launchFault { looping 1 with version := .unset } = some .launchLoop) ∧
    (launchFault { looping 1 with mode := .midRead, sel := true } = some .launchLoop) ∧
    (launchFault (looping 1) = none) ∧ (launchFault { ready with offset := 512 } = none) := by decide

theorem witness_UnwrittenDescriptorFaults :
    ∀ s ∈ [{ ready with cidWritten := false }, { opened .midRead 511 with cidWritten := false },
        { opened .midWrite 511 with cidWritten := false, card := [0xFF, 0xFF, 0xFF, 0xE5] }],
      launchFault s = none ∧ s.seq = .ready ∧ s.version ≠ .unset ∧ s.cidWritten = false ∧
        (s.mode = .midWrite → dataAccepted (reply s 3) = true) := by decide

/-- A power loss in a persist: at its first write and at its last. -/
theorem witness_PowerLossResets :
    ∀ n ∈ [0, 24], ends (step { ready with inbox := [0x0300] }) (fun t =>
      decide (n < t.events.length - ready.events.length)) = true ∧ Memory.wf ready.nv = true := by decide +kernel

/-- The machine does lose power there, and the cut byte holds what the input says. -/
theorem test_powerLoss :
    ends (step { ready with inbox := [0x0300], power := some ⟨7, 0xAB⟩ }) (fun t =>
      t.version == .unset && t.rdCursor == 0 && t.events.length == 7 && Memory.read t.nv 11 == 5 &&
        Memory.read t.nv 12 == 0xAB && Memory.read t.nv 13 == 0xFF) = true := by decide +kernel

end Sys2Proof.Tests
end

section
/-! The scope statements (spec 00_scope.md): the block waits when nothing is presented (R12), the trace accounts for all
a step does outside (R10), and the data operations complete with one result word (R93, R335). -/

namespace Sys2Proof.Machine

/-! ### Steps with no power loss pending -/

/-- With no power loss pending a step is the plain transition. -/
theorem step_of_power_none {s : State} (h : s.power = none) : step s = cycle s := by
  simp only [step, transition, h]

/-- Between host operations the transition serves the host port (R12, R90). -/
theorem cycle_of_launched {s : State} (h : Launched s) : cycle s = serve s := by
  obtain ⟨hlaunch, hseq⟩ := h
  simp only [cycle, hlaunch, hseq]

/-- With nothing presented the block waits (R362). -/
theorem serve_of_inbox_nil {s : State} (h : s.inbox = []) : serve s = .next s := by
  simp only [serve, h]

/-- Settles O53: with no power loss pending a step is the transition, which serves an empty host port. -/
theorem idleStepWaits : Obligations.IdleStepWaits := by
  intro s hl hp hi
  rw [step_of_power_none hp, cycle_of_launched hl, serve_of_inbox_nil hi]

/-! ### The trace of a transition -/

/-- A transition with no power loss in it accounts for all it did outside, but for the host word it may take. -/
theorem ran_cycle {s t : State} (h : cycle s = .next t) : ∃ inbox, Ran { s with inbox := inbox } t := by
  obtain ⟨-, ⟨-, -, rfl⟩ | ⟨_, rest, _, -, -, -, he⟩ | ⟨-, rfl⟩ | ⟨_, _, -, -, he⟩⟩ := cycle_cases h
  · exact ⟨t.inbox, Ran.refl t⟩
  · exact ⟨rest, ran_exec he⟩
  · exact ⟨s.inbox, ran_initLoopRound s⟩
  · exact ⟨s.inbox, (ran_exec he).pre⟩

/-- Settles O56: the step is the plain transition, whose events account for it by `ran_cycle`. -/
theorem traceAccountsForTheStep : Obligations.TraceAccountsForTheStep := by
  intro s t hp h
  rw [step_of_power_none hp] at h
  obtain ⟨_, new, hevents, hnv, hdraws, hcard, hrecord, hcfg, hpower, -⟩ := ran_cycle h
  exact ⟨new, hevents, hnv, hdraws, hcard, hrecord, hcfg, hpower.trans hp⟩

/-! ### The data operations' procedures complete -/

/-- `t` is a state on the way of a data operation begun in `s`: no result word has been presented yet, and CID is
written in both or in neither, so that PERSIST stops in neither or in both (R34, R93). -/
structure Underway (s t : State) : Prop where
  results : t.results = s.results
  cidWritten : t.cidWritten = s.cidWritten

theorem Underway.refl (s : State) : Underway s s := ⟨rfl, rfl⟩

theorem Underway.trans {s t u : State} (h : Underway s t) (h' : Underway t u) : Underway s u :=
  ⟨h'.results.trans h.results, h'.cidWritten.trans h.cidWritten⟩

/-- CID stays written on the way. -/
theorem Underway.written {s t : State} (h : Underway s t) (hc : s.cidWritten = true) : t.cidWritten = true :=
  h.cidWritten.trans hc

theorem underway_persistWith (tag : List Byte) (s : State) : Underway s (persistWith tag s) := by
  rw [persistWith_eq]
  exact ⟨rfl, rfl⟩

theorem underway_afterSend (idx : BitVec 6) (arg : Word) (shape : Shape) (keep : Bool) (k : Nat) (s : State) :
    Underway s (afterSend idx arg shape keep k s) :=
  ⟨rfl, rfl⟩

theorem underway_afterReadOpen (idx : BitVec 6) (arg : Word) (k j : Nat) (s : State) :
    Underway s (afterReadOpen idx arg k j s) :=
  (underway_afterSend idx arg .r1 true k s).trans ⟨rfl, rfl⟩

theorem underway_send {shape : Shape} (hshape : shape ≠ .r1b) (idx : BitVec 6) (arg : Word) (keep : Bool) (s : State) :
    Underway s (send idx arg shape keep s) := by
  obtain ⟨k, -, h⟩ := send_spec idx arg shape keep s hshape
  rw [h]
  exact underway_afterSend idx arg shape keep k s

theorem underway_readOpenPage (s : State) : Underway s (readOpenPage s) := by
  obtain ⟨k, j, -, -, h⟩ := readOpenPage_spec s
  rw [h]
  exact (underway_afterReadOpen idxReadBlock (pageArg s.capacity s.rdCursor) k j s).trans ⟨rfl, rfl⟩

theorem underway_writeOpenPage (s : State) : Underway s (writeOpenPage s) := by
  obtain ⟨k, -, h⟩ := writeOpenPage_spec s
  rw [h]
  exact (underway_afterSend idxWriteBlock (pageArg s.capacity s.wrCursor) .r1 true k s).trans ⟨rfl, rfl⟩

/-- PERSIST completes once CID has been written (R309). -/
theorem persist_completes {s : State} (hc : s.cidWritten = true) : ∃ t, persist s = .ok t ∧ Underway s t :=
  ⟨_, persist_ok hc, underway_persistWith _ s⟩

/-- READ_PAGE_END completes (R263). -/
theorem readPageEnd_completes {s : State} (hc : s.cidWritten = true) : ∃ t, readPageEnd s = .ok t ∧ Underway s t := by
  obtain ⟨m, -, h⟩ := readPageEnd_spec hc
  refine ⟨_, h, Underway.trans ⟨?_, ?_⟩ (underway_persistWith _ _)⟩ <;> rfl

/-- WRITE_PAGE_END completes, whether the page is accepted or rejected (R265). -/
theorem writePageEnd_completes {s : State} (hc : s.cidWritten = true) :
    ∃ t, writePageEnd s = .ok t ∧ Underway s t := by
  refine ⟨_, writePageEnd_spec hc, ?_⟩
  split
  · refine Underway.trans ⟨?_, ?_⟩ (underway_persistWith _ _) <;> rfl
  · exact ⟨rfl, rfl⟩

/-- READ_STEP completes inside a page and at its end (R262). -/
theorem readStep_completes {s : State} (hc : s.cidWritten = true) :
    ∃ b t, readStep s = .ok (b, t) ∧ Underway s t := by
  by_cases hend : (s.offset + 1).toNat = pageBytes
  · obtain ⟨t, ht, hu⟩ := readPageEnd_completes (s := { afterReceive 1 s with offset := s.offset + 1 }) hc
    exact ⟨_, t, readStep_last hend ht, hu.results, hu.cidWritten⟩
  · exact ⟨_, _, readStep_inside hend, rfl, rfl⟩

/-- WRITE_STEP completes inside a page and at its end (R264). -/
theorem writeStep_completes {s : State} (v : Byte) (hc : s.cidWritten = true) :
    ∃ t, writeStep v s = .ok t ∧ Underway s t := by
  by_cases hend : (s.offset + 1).toNat = pageBytes
  · rw [writeStep_last v hend]
    obtain ⟨t, ht, hu⟩ := writePageEnd_completes (s := { afterTransmit [v] s with offset := s.offset + 1 }) hc
    exact ⟨t, ht, hu.results, hu.cidWritten⟩
  · exact ⟨_, writeStep_inside v hend, rfl, rfl⟩

/-- One more round of completing a write (R266). -/
theorem completeWrite_succ {n : Nat} {s t : State} (hm : s.mode = .midWrite) (h : writeStep 0x00 s = .ok t) :
    completeWrite (n + 1) s = completeWrite n t := by
  simp only [completeWrite, hm, h, if_true]

/-- One more round of completing a read (R266). -/
theorem completeRead_succ {n : Nat} {s t : State} {b : Byte} (hm : s.mode = .midRead) (h : readStep s = .ok (b, t)) :
    completeRead (n + 1) s = completeRead n t := by
  simp only [completeRead, hm, h, if_true]

/-- Completing a write completes, at any OFFSET and for any bound on its rounds (R266). -/
theorem completeWrite_completes (n : Nat) {s : State} (hc : s.cidWritten = true) :
    ∃ t, completeWrite n s = .ok t ∧ Underway s t := by
  induction n generalizing s with
  | zero => exact ⟨s, rfl, .refl s⟩
  | succ n ih =>
    by_cases hm : s.mode = .midWrite
    · obtain ⟨t, ht, hst⟩ := writeStep_completes 0x00 hc
      obtain ⟨u, hu, htu⟩ := ih (hst.written hc)
      exact ⟨u, (completeWrite_succ hm ht).trans hu, hst.trans htu⟩
    · exact ⟨s, completeWrite_done hm _, .refl s⟩

/-- Completing a read completes, at any OFFSET and for any bound on its rounds (R266). -/
theorem completeRead_completes (n : Nat) {s : State} (hc : s.cidWritten = true) :
    ∃ t, completeRead n s = .ok t ∧ Underway s t := by
  induction n generalizing s with
  | zero => exact ⟨s, rfl, .refl s⟩
  | succ n ih =>
    by_cases hm : s.mode = .midRead
    · obtain ⟨b, t, ht, hst⟩ := readStep_completes hc
      obtain ⟨u, hu, htu⟩ := ih (hst.written hc)
      exact ⟨u, (completeRead_succ hm ht).trans hu, hst.trans htu⟩
    · exact ⟨s, completeRead_done hm _, .refl s⟩

/-- FORCE_COMPLETE completes from every mode and OFFSET (R266). -/
theorem forceComplete_completes {s : State} (hc : s.cidWritten = true) :
    ∃ t, forceComplete s = .ok t ∧ Underway s t := by
  obtain ⟨t, ht, hst⟩ := completeWrite_completes completionRounds hc
  obtain ⟨u, hu, htu⟩ := completeRead_completes completionRounds (hst.written hc)
  exact ⟨u, by simp only [forceComplete, ht, hu], hst.trans htu⟩

/-- The first part of READ and WRITE: FORCE_COMPLETE where a page of the other kind is open (R268, R269). -/
theorem forceCompleteIf_completes {s : State} (p : Prop) [Decidable p] (hc : s.cidWritten = true) :
    ∃ t, (if p then forceComplete s else .ok s) = .ok t ∧ Underway s t := by
  split
  · exact forceComplete_completes hc
  · exact ⟨s, rfl, .refl s⟩

/-- A procedure that runs only under a condition, such as opening a page where none is open (R268, R269). -/
theorem Underway.ite {s t : State} (p : Prop) [Decidable p] (h : Underway s t) : Underway s (if p then t else s) := by
  split
  · exact h
  · exact .refl s

/-! ### The data operations complete -/

/-- READ completes and presents the byte read (R268). -/
theorem readBody_completes {s : State} (hc : s.cidWritten = true) :
    ∃ t w, readBody s = .ok (returnWord w t) ∧ Underway s t := by
  obtain ⟨t, ht, hst⟩ := forceCompleteIf_completes (s.mode = .midWrite) hc
  have htu := (underway_readOpenPage t).ite (t.mode = .idle)
  obtain ⟨b, u, hu, huv⟩ := readStep_completes (htu.written (hst.written hc))
  exact ⟨u, b.setWidth 16, by simp only [readBody, ht, hu], (hst.trans htu).trans huv⟩

/-- WRITE completes and presents 0 (R269). -/
theorem writeBody_completes {s : State} (v : Byte) (hc : s.cidWritten = true) :
    ∃ t w, writeBody v s = .ok (returnWord w t) ∧ Underway s t := by
  obtain ⟨t, ht, hst⟩ := forceCompleteIf_completes (s.mode = .midRead) hc
  have htu := (underway_writeOpenPage t).ite (t.mode = .idle)
  obtain ⟨u, hu, huv⟩ := writeStep_completes v (htu.written (hst.written hc))
  exact ⟨u, 0, by simp only [writeBody, ht, hu], (hst.trans htu).trans huv⟩

/-- ERASE completes and presents 0 (R272). -/
theorem eraseBody_completes {s : State} (hc : s.cidWritten = true) :
    ∃ t w, eraseBody s = .ok (returnWord w t) ∧ Underway s t := by
  obtain ⟨t, ht, hst⟩ := forceComplete_completes hc
  obtain ⟨u, hu, htu⟩ := persist_completes (s := { t with rdCursor := t.wrCursor }) (hst.written hc)
  exact ⟨u, 0, by simp only [eraseBody, ht, hu], hst.trans ⟨htu.results, htu.cidWritten⟩⟩

/-- GET_STATUS completes and presents the two bytes of the status response (R273). -/
theorem getStatusBody_completes {s : State} (hc : s.cidWritten = true) :
    ∃ t w, getStatusBody s = .ok (returnWord w t) ∧ Underway s t := by
  obtain ⟨t, ht, hst⟩ := forceComplete_completes hc
  have htu := underway_send (shape := .r2) (by decide) idxSendStatus 0 false t
  exact ⟨send idxSendStatus 0 .r2 false t, _, by simp only [getStatusBody, ht]; rfl, hst.trans htu⟩

/-- A usable state passes the guards of the data operations (R12, R336). -/
theorem whenUsable_of_usable {s : State} (h : Usable s) (o : Outcome) : whenUsable s o = o := by
  obtain ⟨⟨hlaunch, hseq⟩, hversion, -⟩ := h
  simp only [whenUsable, whenLaunched, hlaunch, hseq, hversion, if_true, if_false]

/-- An operation whose body completes with a word returned adds that word and leaves SEQ at READY (R21, R93). -/
theorem whenUsable_settle_completes {s : State} {r : Except Fault State} (h : Usable s)
    (hr : ∃ t w, r = .ok (returnWord w t) ∧ Underway s t) :
    ∃ t w, whenUsable s (settle r) = .next t ∧ t.results = s.results ++ [w] ∧ t.seq = .ready := by
  obtain ⟨t, w, rfl, hst⟩ := hr
  exact ⟨returnWord w t, w, whenUsable_of_usable h _, congrArg (· ++ [w]) hst.results, rfl⟩

/-- Settles O25: each of the four bodies completes once CID has been written, and a usable state passes the guards. -/
theorem dataOperationsComplete : Obligations.DataOperationsComplete := by
  intro i s hi hs
  have hc : s.cidWritten = true := hs.2.2
  obtain rfl | ⟨v, rfl⟩ | rfl | rfl := hi
  · exact whenUsable_settle_completes hs (readBody_completes hc)
  · exact whenUsable_settle_completes hs (writeBody_completes v hc)
  · exact whenUsable_settle_completes hs (eraseBody_completes hc)
  · exact whenUsable_settle_completes hs (getStatusBody_completes hc)

end Sys2Proof.Machine
end

section
/-! The state statements (spec 10_state.md), first part: the values at reset, the layout of FLAGS, what a step runs, and
the states that stop with a fault (R34, R35, R42, R44). -/

namespace Sys2Proof.Machine

/-! ### Reset and FLAGS -/

/-- Settles O47: the table of R44, and a power loss that cuts no write leaves the fold of the completed events. -/
theorem resetValues : Obligations.ResetValues := by
  refine ⟨rfl, rfl, rfl, rfl, rfl, rfl, rfl, rfl, rfl, rfl, rfl, rfl, rfl, rfl, rfl, rfl, rfl, rfl, ?flagsWord, rfl, rfl,
    rfl, fun _ _ _ _ => rfl⟩
  case flagsWord => decide

/-- Bits 8:0 of FLAGS, from bit 0 up (R35). -/
def State.lowFlags (s : State) : List Bool :=
  [s.flags.rdCrcOk, s.flags.wrCrcOk, s.flags.cmdTimeout, s.flags.tokenTimeout, s.flags.busyTimeout, s.flags.wrReject,
    decide (s.version ≠ .unset), s.flags.recordCorrupt, s.flags.idMismatch]

/-- FLAGS bit by bit: nine single bits, then the reserved bits, then the abort code (R35). -/
theorem getLsbD_flagsWord (s : State) (n : Nat) :
    s.flagsWord.getLsbD n =
      if n < 9 then s.lowFlags.getD n false
      else if n < 12 then s.flags.reservedBits.getLsbD (n - 9)
      else s.flags.abortCode.getLsbD (n - 12) := by
  have hready : s.readyFlag = decide (s.version ≠ .unset) := by
    cases h : s.version <;> simp [State.readyFlag, h]
  simp only [State.flagsWord, BitVec.getLsbD_append, BitVec.getLsbD_ofBool, hready]
  rcases Nat.lt_or_ge n 9 with hn | hn
  · interval_cases n <;> rfl
  · obtain ⟨m, rfl⟩ := Nat.exists_eq_add_of_le' hn
    have h12 : m + 9 < 12 ↔ m < 3 := by omega
    simp [h12, show m + 9 - 12 = m - 3 by omega]

/-- Settles O60: every field is read off `getLsbD_flagsWord` at its bit. -/
theorem flagsWordLayout : Obligations.FlagsWordLayout := by
  intro s
  have hbit := getLsbD_flagsWord s
  have hreserved : s.flagsWord.extractLsb' 9 3 = s.flags.reservedBits := by
    apply BitVec.eq_of_getLsbD_eq
    intro i hi
    simp [hbit, hi, show 9 + i < 12 by omega]
  have habort : s.flagsWord.extractLsb' 12 4 = s.flags.abortCode := by
    apply BitVec.eq_of_getLsbD_eq
    intro i hi
    simp [hbit, hi, show ¬ 12 + i < 9 by omega]
  refine ⟨hbit 0, hbit 1, hbit 2, hbit 3, hbit 4, hbit 5, hbit 6, hbit 7, hbit 8, hreserved, fun h => ?_, habort⟩
  obtain ⟨-, -, -, -, -, hzero, -⟩ := (launchFault_none_iff s).1 h
  rw [hreserved, hzero]

/-! ### What a step runs -/

/-- A request that decodes is executed (R94). -/
theorem runRequest_of_decode {r : Request} {i : Instr} (h : decode r = .ok i) (s : State) : runRequest r s = exec i s := by
  simp only [runRequest, h]

/-- With SEQ = READY the oldest word presented is taken and run (R90). -/
theorem cycle_of_inbox_cons {s : State} {hc : HostWord} {rest : List HostWord} (h : Launched s)
    (hi : s.inbox = hc :: rest) : cycle s = runRequest (.host hc) { s with inbox := rest } := by
  rw [cycle_of_launched h]
  simp only [serve, hi]

/-- With SEQ at a SEND the command whose frame the framer holds is run (log entry 3). -/
theorem cycle_of_framing {s : State} {f : Frame} (h : launchFault s = none) (hs : s.seq = .framing f) :
    cycle s = runRequest (.frame f) { s with seq := .ready } := by
  simp only [cycle, h, hs]

/-- Settles O51: the step is the plain transition, which runs the request at the position SEQ names. -/
theorem stepRunsTheDecodedInstruction : Obligations.StepRunsTheDecodedInstruction := by
  intro s i hl hp
  rw [step_of_power_none hp]
  refine ⟨fun hc rest hs hi hd => ?_, fun f hs hd => ?_⟩
  · rw [cycle_of_inbox_cons ⟨hl, hs⟩ hi, runRequest_of_decode hd]
  · rw [cycle_of_framing hl hs, runRequest_of_decode hd]

/-! ### Launch faults -/

theorem whenLaunched_of_launchFault {s : State} {f : Fault} (h : launchFault s = some f) (o : Outcome) :
    whenLaunched s o = .fault f := by
  simp only [whenLaunched, h]

/-- Every operation checks for a launch fault first (R42). -/
theorem exec_of_launchFault {s : State} {f : Fault} (h : launchFault s = some f) (i : Instr) : exec i s = .fault f := by
  cases i <;> exact whenLaunched_of_launchFault h _

/-- Every step checks for a launch fault first, with a power loss pending or not (R42). -/
theorem step_of_launchFault {s : State} {f : Fault} (h : launchFault s = some f) : step s = .fault f := by
  have hc : cycle { s with power := none } = .fault f := by
    have h' : launchFault { s with power := none } = some f := h
    simp only [cycle, h']
  cases hp : s.power with
  | none =>
    have hs : { s with power := none } = s := by rw [← hp]
    rw [step_of_power_none hp, ← hc, hs]
  | some p => simp only [step, transition, hp, cyclePowered, hc]

/-- The loop's registers say that the version is known and no page is open (R191, R194). -/
theorem loopRegisters_false {s : State} (h : s.version = .unset ∨ s.mode ≠ .idle) : loopRegisters s = false := by
  rcases h with h | h <;> simp [loopRegisters, h]

/-- Settles O54: each of the six kinds of state meets its own test of `launchFault`, if none before it, and every test up
to that of the loop names a fault of the list. -/
theorem launchStatesFault : Obligations.LaunchStatesFault := by
  intro s hs
  have hf : ∃ f ∈ [Fault.launchMode, .launchVersion, .launchOffset, .launchDeselected, .launchUninitialized, .launchLoop],
      launchFault s = some f := by
    unfold launchFault
    split_ifs with h1 h2 h3 h4 h5 h6
    iterate 6 exact ⟨_, by decide, rfl⟩
    all_goals
      exfalso
      rcases hs with h | h | h | h | h | ⟨h, hv⟩
      · exact h1 h
      · exact h2 h
      · exact h3 h
      · exact h4 h
      · exact h5 h
      · exact h6 ⟨h, loopRegisters_false hv⟩
  obtain ⟨f, hmem, hf⟩ := hf
  exact ⟨f, hmem, step_of_launchFault hf, exec_of_launchFault hf⟩

/-! ### Reading an unwritten CID -/

theorem persist_unwritten {s : State} (h : s.cidWritten = false) : persist s = .error .unwrittenDescriptor := by
  simp [persist, h]

theorem whenUsable_of_launched {s : State} (h : Launched s) (hv : s.version ≠ .unset) (o : Outcome) :
    whenUsable s o = o := by
  obtain ⟨hl, hs⟩ := h
  simp only [whenUsable, whenLaunched, hl, hs, hv, if_true, if_false]

/-- The end of a read page persists (R263). -/
theorem readPageEnd_unwritten {s : State} (h : s.cidWritten = false) :
    readPageEnd s = .error .unwrittenDescriptor := by
  obtain ⟨m, -, hc⟩ := readBlockClose_spec s
  unfold readPageEnd
  rw [hc]
  exact persist_unwritten h

/-- The end of a write page persists where the page is accepted (R265). -/
theorem writePageEnd_unwritten {s : State} (h : s.cidWritten = false) (ha : dataAccepted (reply s 2) = true) :
    writePageEnd s = .error .unwrittenDescriptor := by
  unfold writePageEnd
  rw [writeBlockClose_eq]
  simp only [ha, if_true]
  exact persist_unwritten h

/-- Settles O55: each of the three operations meets PERSIST, whose read of CID stops it. -/
theorem unwrittenDescriptorFaults : Obligations.UnwrittenDescriptorFaults := by
  intro s hl hv hc
  have hend : (s.offset = 511 → (s.offset + 1).toNat = pageBytes) := fun h => by rw [h]; rfl
  refine ⟨fun hm => ?_, fun hm ho => ?_, fun hm ho ha v => ?_⟩
  · have hp : persist { s with rdCursor := s.wrCursor } = .error .unwrittenDescriptor := persist_unwritten hc
    have hb : eraseBody s = .error .unwrittenDescriptor := by
      simp only [eraseBody, forceComplete_idle hm, hp]
    exact (whenUsable_of_launched hl hv _).trans (by rw [hb]; rfl)
  · have hr : readStep s = .error .unwrittenDescriptor := by
      have hp := readPageEnd_unwritten (s := { afterReceive 1 s with offset := s.offset + 1 }) hc
      simp only [readStep, rxPayload_eq, show (afterReceive 1 s).offset = s.offset from rfl, hend ho, if_true, hp]
    have hb : readBody s = .error .unwrittenDescriptor := by simp [readBody, hm, hr]
    exact (whenUsable_of_launched hl hv _).trans (by rw [hb]; rfl)
  · have hw : writeStep v s = .error .unwrittenDescriptor := by
      rw [writeStep_last v (hend ho)]
      exact writePageEnd_unwritten hc ((congrArg dataAccepted (reply_afterTransmit [v] s 2)).trans ha)
    have hb : writeBody v s = .error .unwrittenDescriptor := by simp [writeBody, hm, hw]
    exact (whenUsable_of_launched hl hv _).trans (by rw [hb]; rfl)

end Sys2Proof.Machine
end

section
/-! The state statements, second part: what the data operations keep (R37, R43, R335). -/

namespace Sys2Proof.Machine

/-! ### The cursor range -/

/-- A cursor's range for a page count: below it, or 0 where it is 0 (R25). -/
def InRange (totalPages c : Word) : Prop := if totalPages = 0 then c = 0 else c.toNat < totalPages.toNat

theorem cursorsInRange_iff (s : State) :
    CursorsInRange s ↔ InRange s.totalPages s.rdCursor ∧ InRange s.totalPages s.wrCursor := by
  unfold CursorsInRange InRange
  split <;> rfl

theorem inRange_zero (totalPages : Word) : InRange totalPages 0 := by
  unfold InRange
  split
  · rfl
  · next h => exact Nat.pos_of_ne_zero fun h0 => h (BitVec.eq_of_toNat_eq h0)

/-- The advance of any cursor is in range (R260). -/
theorem inRange_advance (totalPages c : Word) : InRange totalPages (advance totalPages c) := by
  unfold advance
  split
  · exact inRange_zero totalPages
  · next h =>
    have hne : totalPages ≠ 0 := by rintro rfl; exact h (Nat.zero_le _)
    have := totalPages.isLt
    simp only [InRange, hne, if_false, BitVec.toNat_add]
    rw [Nat.mod_eq_of_lt (by simp; omega)]
    simp
    omega

/-- What CLAMP gives is in range (R307). -/
theorem inRange_clamp (totalPages c : Word) : InRange totalPages (clamp totalPages c) := by
  unfold clamp
  split
  · next h =>
    have hne : totalPages ≠ 0 := by rintro rfl; exact absurd h (Nat.not_lt_zero _)
    simpa only [InRange, hne, if_false] using h
  · exact inRange_zero totalPages

/-! ### The registers that bus procedures write -/

/-- The registers that a bus procedure may write: those of R28 to R32, five fields of FLAGS, SEL, the trace and the card's
place in its replies. -/
structure BusRegisters where
  crc16 : BitVec 16
  crc7 : BitVec 7
  cmdIdx : BitVec 6
  cmdArg : Word
  lastR1 : Byte
  respB2 : Byte
  respPayload : Word
  rdCrcOk : Bool
  cmdTimeout : Bool
  tokenTimeout : Bool
  busyTimeout : Bool
  wrReject : Bool
  sel : Bool
  events : List Event
  card : List Byte
  draws : Nat

/-- `s` with other bus registers. -/
def State.withBus (s : State) (x : BusRegisters) : State :=
  { s with
    crc16 := x.crc16, crc7 := x.crc7, cmdIdx := x.cmdIdx, cmdArg := x.cmdArg, lastR1 := x.lastR1, respB2 := x.respB2
    respPayload := x.respPayload, sel := x.sel, events := x.events, card := x.card, draws := x.draws
    flags := { s.flags with
      rdCrcOk := x.rdCrcOk, cmdTimeout := x.cmdTimeout, tokenTimeout := x.tokenTimeout, busyTimeout := x.busyTimeout
      wrReject := x.wrReject } }

/-- The bus registers of a state. -/
def State.bus (s : State) : BusRegisters where
  crc16 := s.crc16
  crc7 := s.crc7
  cmdIdx := s.cmdIdx
  cmdArg := s.cmdArg
  lastR1 := s.lastR1
  respB2 := s.respB2
  respPayload := s.respPayload
  rdCrcOk := s.flags.rdCrcOk
  cmdTimeout := s.flags.cmdTimeout
  tokenTimeout := s.flags.tokenTimeout
  busyTimeout := s.flags.busyTimeout
  wrReject := s.flags.wrReject
  sel := s.sel
  events := s.events
  card := s.card
  draws := s.draws

/-- A procedure wrote bus registers only. -/
def BusOnly (s t : State) : Prop := ∃ x, t = s.withBus x

theorem BusOnly.of_eq {s t : State} (h : t = s.withBus t.bus) : BusOnly s t := ⟨t.bus, h⟩

theorem BusOnly.trans {s t u : State} (h : BusOnly s t) (h' : BusOnly t u) : BusOnly s u := by
  obtain ⟨x, rfl⟩ := h
  obtain ⟨y, rfl⟩ := h'
  exact ⟨y, rfl⟩

theorem busOnly_exchanged (os : List Byte) (s : State) : BusOnly s (exchanged os s) :=
  .of_eq (by simp only [State.withBus, State.bus, exchanged])

theorem busOnly_afterSend (idx : BitVec 6) (arg : Word) (shape : Shape) (keep : Bool) (k : Nat) (s : State) :
    BusOnly s (afterSend idx arg shape keep k s) :=
  .of_eq (by simp only [State.withBus, State.bus, afterSend, exchanged, select, emit])

theorem busOnly_send {shape : Shape} (hshape : shape ≠ .r1b) (idx : BitVec 6) (arg : Word) (keep : Bool) (s : State) :
    BusOnly s (send idx arg shape keep s) := by
  obtain ⟨k, -, h⟩ := send_spec idx arg shape keep s hshape
  rw [h]
  exact busOnly_afterSend idx arg shape keep k s

theorem busOnly_afterReadOpen (idx : BitVec 6) (arg : Word) (k j : Nat) (s : State) :
    BusOnly s (afterReadOpen idx arg k j s) := by
  refine (busOnly_afterSend idx arg .r1 true k s).trans (.of_eq ?_)
  simp only [State.withBus, State.bus, afterReadOpen, exchanged]

theorem busOnly_afterReadClose (m : Nat) (s : State) : BusOnly s (afterReadClose m s) :=
  .of_eq (by simp only [State.withBus, State.bus, afterReadClose, exchanged])

theorem busOnly_afterReceive (n : Nat) (s : State) : BusOnly s (afterReceive n s) :=
  .of_eq (by simp only [State.withBus, State.bus, afterReceive, exchanged])

theorem busOnly_afterTransmit (vs : List Byte) (s : State) : BusOnly s (afterTransmit vs s) :=
  .of_eq (by simp only [State.withBus, State.bus, afterTransmit, exchanged])

theorem busOnly_readDescriptorBytes (idx : BitVec 6) (s : State) : BusOnly s (readDescriptorBytes idx s).2 := by
  obtain ⟨k, j, m, -, -, -, h⟩ := readDescriptorBytes_spec idx s
  rw [h]
  exact ((busOnly_afterReadOpen idx 0 k j s).trans (busOnly_afterReceive 16 _)).trans (busOnly_afterReadClose m _)

/-! ### What a data operation's procedures keep -/

/-- What every procedure of a data operation keeps: the card's registers (R43), the parameters, the cursors' range (R25),
FLAGS.ABORT_CODE and the reserved bits, and WR_CRC_OK where it is not recorded (R37). Its last step may set SEQ to READY. -/
structure Kept (s t : State) : Prop where
  card : SameCard s t
  cfg : t.cfg = s.cfg
  seq : s.seq = .ready → t.seq = .ready
  cursors : CursorsInRange s → CursorsInRange t
  reservedBits : t.flags.reservedBits = s.flags.reservedBits
  abortCode : t.flags.abortCode = s.flags.abortCode
  wrCrcOk : s.cfg.writeCrcFlagRecorded = false → t.flags.wrCrcOk = s.flags.wrCrcOk

theorem Kept.refl (s : State) : Kept s s :=
  ⟨⟨rfl, rfl, rfl, rfl, rfl, rfl, rfl, rfl, rfl⟩, rfl, id, id, rfl, rfl, fun _ => rfl⟩

theorem Kept.trans {s t u : State} (h : Kept s t) (h' : Kept t u) : Kept s u where
  card := by
    obtain ⟨a1, a2, a3, a4, a5, a6, a7, a8, a9⟩ := h.card
    obtain ⟨b1, b2, b3, b4, b5, b6, b7, b8, b9⟩ := h'.card
    exact ⟨b1.trans a1, b2.trans a2, b3.trans a3, b4.trans a4, b5.trans a5, b6.trans a6, b7.trans a7, b8.trans a8,
      b9.trans a9⟩
  cfg := h'.cfg.trans h.cfg
  seq := h'.seq ∘ h.seq
  cursors := h'.cursors ∘ h.cursors
  reservedBits := h'.reservedBits.trans h.reservedBits
  abortCode := h'.abortCode.trans h.abortCode
  wrCrcOk hw := (h'.wrCrcOk (h.cfg ▸ hw)).trans (h.wrCrcOk hw)

/-- A procedure that runs only under a condition. -/
theorem Kept.ite {s t : State} (p : Prop) [Decidable p] (h : Kept s t) : Kept s (if p then t else s) := by
  split
  · exact h
  · exact .refl s

/-- Bus procedures write nothing that is kept. -/
theorem BusOnly.kept {s t : State} (h : BusOnly s t) : Kept s t := by
  obtain ⟨x, rfl⟩ := h
  exact ⟨⟨rfl, rfl, rfl, rfl, rfl, rfl, rfl, rfl, rfl⟩, rfl, id, id, rfl, rfl, fun _ => rfl⟩

/-- MODE and OFFSET are not among what is kept. -/
theorem Kept.place {s t : State} (h : Kept s t) (m : Mode) (o : BitVec 10) :
    Kept s { t with mode := m, offset := o } :=
  ⟨h.card, h.cfg, h.seq, h.cursors, h.reservedBits, h.abortCode, h.wrCrcOk⟩

/-- The read cursor may be set to a value in range. -/
theorem Kept.readCursor {s t : State} (h : Kept s t) {c : Word} (hc : CursorsInRange s → InRange s.totalPages c) :
    Kept s { t with rdCursor := c } := by
  refine ⟨h.card, h.cfg, h.seq, fun hs => ?_, h.reservedBits, h.abortCode, h.wrCrcOk⟩
  obtain ⟨-, -, htotal, -⟩ := h.card
  exact (cursorsInRange_iff _).2 ⟨htotal ▸ hc hs, ((cursorsInRange_iff t).1 (h.cursors hs)).2⟩

/-- The write cursor may be set to a value in range. -/
theorem Kept.writeCursor {s t : State} (h : Kept s t) {c : Word} (hc : CursorsInRange s → InRange s.totalPages c) :
    Kept s { t with wrCursor := c } := by
  refine ⟨h.card, h.cfg, h.seq, fun hs => ?_, h.reservedBits, h.abortCode, h.wrCrcOk⟩
  obtain ⟨-, -, htotal, -⟩ := h.card
  exact (cursorsInRange_iff _).2 ⟨((cursorsInRange_iff t).1 (h.cursors hs)).1, htotal ▸ hc hs⟩

theorem kept_persistWith (tag : List Byte) (s : State) : Kept s (persistWith tag s) := by
  rw [persistWith_eq]
  exact ⟨⟨rfl, rfl, rfl, rfl, rfl, rfl, rfl, rfl, rfl⟩, rfl, id, id, rfl, rfl, fun _ => rfl⟩

theorem kept_readOpenPage (s : State) : Kept s (readOpenPage s) := by
  obtain ⟨k, j, -, -, h⟩ := readOpenPage_spec s
  rw [h]
  exact (busOnly_afterReadOpen _ _ k j s).kept.place .midRead 0

theorem kept_writeOpenPage (s : State) : Kept s (writeOpenPage s) := by
  obtain ⟨k, -, h⟩ := writeOpenPage_spec s
  have hb : BusOnly s (exchanged [startToken] (afterSend idxWriteBlock (pageArg s.capacity s.wrCursor) .r1 true k s)) :=
    (busOnly_afterSend _ _ _ _ k s).trans (busOnly_exchanged _ _)
  rw [h]
  unfold afterWriteOpenPage
  generalize exchanged [startToken] _ = t at hb ⊢
  exact (hb.trans (u := { t with crc16 := 0 }) (.of_eq rfl)).kept.place .midWrite 0

/-- The end of a read page moves the read cursor by the advance, and persists (R263). -/
theorem kept_afterReadEnd (m : Nat) (s : State) : Kept s (afterReadEnd m s) := by
  refine Kept.trans ?_ (kept_persistWith _ _)
  exact ((busOnly_afterReadClose m s).kept.place .idle 0).readCursor fun _ => inRange_advance _ _

/-- The close of a write block writes WR_CRC_OK where the run records it, and bus registers (R239). -/
theorem kept_afterWriteClose (s : State) : Kept s (afterWriteClose s) := by
  unfold afterWriteClose
  exact ⟨⟨rfl, rfl, rfl, rfl, rfl, rfl, rfl, rfl, rfl⟩, rfl, id, id, rfl, rfl, fun h => by simp [h]⟩

/-- The end of a write page moves the write cursor by the advance, if at all (R265). -/
theorem kept_afterWriteEnd (s : State) : Kept s (afterWriteEnd s) := by
  unfold afterWriteEnd
  split
  · refine Kept.trans ?_ (kept_persistWith _ _)
    exact ((kept_afterWriteClose s).place .idle 0).writeCursor fun _ => inRange_advance _ _
  · exact (kept_afterWriteClose s).place .idle 0

/-! ### Everything the streaming procedures can do, where they complete -/

theorem readPageEnd_cases {s t : State} (h : readPageEnd s = .ok t) : ∃ m, t = afterReadEnd m s := by
  obtain ⟨m, -, hc⟩ := readBlockClose_spec s
  unfold readPageEnd at h
  rw [hc] at h
  exact ⟨m, (persist_cases h).2⟩

theorem writePageEnd_cases {s t : State} (h : writePageEnd s = .ok t) : t = afterWriteEnd s := by
  unfold writePageEnd at h
  rw [writeBlockClose_eq] at h
  unfold afterWriteEnd
  dsimp only at h
  split at h
  · next ha =>
    rw [if_pos ha]
    exact (persist_cases h).2
  · next ha =>
    rw [if_neg ha]
    injection h with h
    exact h.symm

/-- READ_STEP takes a byte inside the page, or the last one and ends the page (R262). -/
theorem readStep_cases {s t : State} {b : Byte} (h : readStep s = .ok (b, t)) :
    ((s.offset + 1).toNat ≠ pageBytes ∧ t = { afterReceive 1 s with offset := s.offset + 1 }) ∨
    ((s.offset + 1).toNat = pageBytes ∧ ∃ m, t = afterReadEnd m { afterReceive 1 s with offset := s.offset + 1 }) := by
  by_cases hend : (s.offset + 1).toNat = pageBytes
  · refine .inr ⟨hend, ?_⟩
    cases he : readPageEnd { afterReceive 1 s with offset := s.offset + 1 } with
    | ok u =>
      rw [readStep_last hend he] at h
      injection h with h
      injection h with _ h
      exact h ▸ readPageEnd_cases he
    | error f =>
      simp only [readStep, rxPayload_eq, show (afterReceive 1 s).offset = s.offset from rfl, hend, if_true, he,
        reduceCtorEq] at h
  · rw [readStep_inside hend] at h
    injection h with h
    injection h with _ h
    exact .inl ⟨hend, h.symm⟩

/-- WRITE_STEP sends a byte inside the page, or the last one and ends the page (R264). -/
theorem writeStep_cases {v : Byte} {s t : State} (h : writeStep v s = .ok t) :
    ((s.offset + 1).toNat ≠ pageBytes ∧ t = { afterTransmit [v] s with offset := s.offset + 1 }) ∨
    ((s.offset + 1).toNat = pageBytes ∧ t = afterWriteEnd { afterTransmit [v] s with offset := s.offset + 1 }) := by
  by_cases hend : (s.offset + 1).toNat = pageBytes
  · rw [writeStep_last v hend] at h
    exact .inr ⟨hend, writePageEnd_cases h⟩
  · rw [writeStep_inside v hend] at h
    injection h with h
    exact .inl ⟨hend, h.symm⟩

/-- READ completes the open write page, opens a read page where none is open, and takes a byte (R268). -/
theorem readBody_cases {s t : State} (h : readBody s = .ok t) :
    ∃ u v b, (if s.mode = .midWrite then forceComplete s else .ok s) = .ok u ∧
      readStep (if u.mode = .idle then readOpenPage u else u) = .ok (b, v) ∧ t = returnWord (b.setWidth 16) v := by
  unfold readBody at h
  split at h
  · cases h
  · next u hu =>
    split at h
    · cases h
    · next b v hv =>
      injection h with h
      exact ⟨u, v, b, hu, hv, h.symm⟩

/-- WRITE completes the open read page, opens a write page where none is open, and sends a byte (R269). -/
theorem writeBody_cases {d : Byte} {s t : State} (h : writeBody d s = .ok t) :
    ∃ u v, (if s.mode = .midRead then forceComplete s else .ok s) = .ok u ∧
      writeStep d (if u.mode = .idle then writeOpenPage u else u) = .ok v ∧ t = returnWord 0x0000 v := by
  unfold writeBody at h
  split at h
  · cases h
  · next u hu =>
    split at h
    · cases h
    · next v hv =>
      injection h with h
      exact ⟨u, v, hu, hv, h.symm⟩

/-- ERASE completes the open page, moves the read cursor and persists (R272). -/
theorem eraseBody_cases {s t : State} (h : eraseBody s = .ok t) :
    ∃ u, forceComplete s = .ok u ∧
      t = returnWord 0x0000 (persistWith (idTag u.cid) { u with rdCursor := u.wrCursor }) := by
  unfold eraseBody at h
  split at h
  · cases h
  · next u hu =>
    split at h
    · cases h
    · next v hv =>
      injection h with h
      obtain ⟨-, rfl⟩ := persist_cases hv
      exact ⟨u, hu, h.symm⟩

/-- GET_STATUS completes the open page and sends SEND_STATUS (R273). -/
theorem getStatusBody_cases {s t : State} (h : getStatusBody s = .ok t) :
    ∃ u w, forceComplete s = .ok u ∧ t = returnWord w (send idxSendStatus 0 .r2 false u) := by
  unfold getStatusBody at h
  split at h
  · cases h
  · next u hu =>
    injection h with h
    exact ⟨u, _, hu, h.symm⟩

/-! ### The data operations keep the card -/

theorem kept_readStep {s t : State} {b : Byte} (h : readStep s = .ok (b, t)) : Kept s t := by
  have hstep : Kept s { afterReceive 1 s with offset := s.offset + 1 } :=
    (busOnly_afterReceive 1 s).kept.place _ _
  obtain ⟨-, rfl⟩ | ⟨-, m, rfl⟩ := readStep_cases h
  · exact hstep
  · exact hstep.trans (kept_afterReadEnd m _)

theorem kept_writeStep {v : Byte} {s t : State} (h : writeStep v s = .ok t) : Kept s t := by
  have hstep : Kept s { afterTransmit [v] s with offset := s.offset + 1 } :=
    (busOnly_afterTransmit [v] s).kept.place _ _
  obtain ⟨-, rfl⟩ | ⟨-, rfl⟩ := writeStep_cases h
  · exact hstep
  · exact hstep.trans (kept_afterWriteEnd _)

theorem kept_completeWrite {n : Nat} {s t : State} (h : completeWrite n s = .ok t) : Kept s t := by
  induction n generalizing s with
  | zero => injection h with h; exact h ▸ .refl s
  | succ n ih =>
    by_cases hm : s.mode = .midWrite
    · cases hw : writeStep 0x00 s with
      | ok u =>
        rw [completeWrite_succ hm hw] at h
        exact (kept_writeStep hw).trans (ih h)
      | error f => simp only [completeWrite, hm, if_true, hw, reduceCtorEq] at h
    · rw [completeWrite_done hm] at h
      injection h with h
      exact h ▸ .refl s

theorem kept_completeRead {n : Nat} {s t : State} (h : completeRead n s = .ok t) : Kept s t := by
  induction n generalizing s with
  | zero => injection h with h; exact h ▸ .refl s
  | succ n ih =>
    by_cases hm : s.mode = .midRead
    · cases hr : readStep s with
      | ok u =>
        rw [completeRead_succ hm hr] at h
        exact (kept_readStep hr).trans (ih h)
      | error f => simp only [completeRead, hm, if_true, hr, reduceCtorEq] at h
    · rw [completeRead_done hm] at h
      injection h with h
      exact h ▸ .refl s

theorem kept_forceComplete {s t : State} (h : forceComplete s = .ok t) : Kept s t := by
  unfold forceComplete at h
  split at h
  · next u hu => exact (kept_completeWrite hu).trans (kept_completeRead h)
  · cases h

theorem kept_forceCompleteIf {s t : State} {p : Prop} [Decidable p]
    (h : (if p then forceComplete s else .ok s) = .ok t) : Kept s t := by
  split at h
  · exact kept_forceComplete h
  · injection h with h
    exact h ▸ .refl s

theorem kept_returnWord (w : HostWord) (s : State) : Kept s (returnWord w s) :=
  ⟨⟨rfl, rfl, rfl, rfl, rfl, rfl, rfl, rfl, rfl⟩, rfl, fun _ => rfl, id, rfl, rfl, fun _ => rfl⟩

/-- The body of a data operation, in the order of the instructions (R268, R269, R272, R273). -/
inductive DataRun (s t : State) : Prop where
  | read (h : readBody s = .ok t)
  | write (v : Byte) (h : writeBody v s = .ok t)
  | erase (h : eraseBody s = .ok t)
  | getStatus (h : getStatusBody s = .ok t)

/-- A data operation that answers a next state ran its body in a launched and negotiated state (R336). -/
theorem dataRun_of_exec {i : Instr} {s t : State} (hi : i = .read ∨ (∃ v, i = .write v) ∨ i = .erase ∨ i = .getStatus)
    (h : exec i s = .next t) : Launched s ∧ s.version ≠ .unset ∧ DataRun s t := by
  obtain rfl | ⟨v, rfl⟩ | rfl | rfl := hi
  all_goals obtain ⟨hl, hv, h⟩ := whenUsable_next h
  · exact ⟨hl, hv, .read (settle_next h)⟩
  · exact ⟨hl, hv, .write v (settle_next h)⟩
  · exact ⟨hl, hv, .erase (settle_next h)⟩
  · exact ⟨hl, hv, .getStatus (settle_next h)⟩

theorem DataRun.kept {s t : State} (h : DataRun s t) : Kept s t := by
  cases h with
  | read h =>
    obtain ⟨u, v, b, hu, hv, rfl⟩ := readBody_cases h
    exact (((kept_forceCompleteIf hu).trans ((kept_readOpenPage u).ite _)).trans (kept_readStep hv)).trans
      (kept_returnWord _ v)
  | write d h =>
    obtain ⟨u, v, hu, hv, rfl⟩ := writeBody_cases h
    exact (((kept_forceCompleteIf hu).trans ((kept_writeOpenPage u).ite _)).trans (kept_writeStep hv)).trans
      (kept_returnWord _ v)
  | erase h =>
    obtain ⟨u, hu, rfl⟩ := eraseBody_cases h
    have hmove : Kept u { u with rdCursor := u.wrCursor } :=
      (Kept.refl u).readCursor fun h => ((cursorsInRange_iff u).1 h).2
    exact (((kept_forceComplete hu).trans hmove).trans (kept_persistWith _ _)).trans (kept_returnWord _ _)
  | getStatus h =>
    obtain ⟨u, w, hu, rfl⟩ := getStatusBody_cases h
    exact ((kept_forceComplete hu).trans (busOnly_send (by decide) _ _ _ u).kept).trans (kept_returnWord w _)

/-- Settles O27: every procedure of the four bodies is `Kept`. -/
theorem dataOperationsKeepTheCard : Obligations.DataOperationsKeepTheCard := by
  intro i s t hi h
  obtain ⟨-, -, hrun⟩ := dataRun_of_exec hi h
  exact hrun.kept.card

end Sys2Proof.Machine
end

section
/-! The state statements, third part: every step keeps the invariant (R25, R34, R42, R275, R342). -/

namespace Sys2Proof.Machine

/-! ### The NV store -/

/-- The invariant's part about the NV store: canonical, and within the address space (R39). -/
def StoreOk (p : Params) (m : Memory) : Prop := Memory.wf m = true ∧ ∀ c ∈ m, c.1 < 2 ^ p.nvAddrBits

theorem storeOk_write {p : Params} {m : Memory} {a : Nat} (h : StoreOk p m) (ha : InRecord p a) (v : Byte) :
    StoreOk p (Memory.write m a v) := by
  obtain ⟨hwf, hspace⟩ := h
  obtain ⟨i, -, rfl⟩ := ha
  refine ⟨Memory.wf_write hwf _ v, fun c hc => ?_⟩
  rcases Memory.mem_write hc with h | h
  · exact h ▸ nvAddr_lt p i
  · exact hspace c h

theorem storeOk_nvApply {p : Params} {m : Memory} {e : Event} (h : StoreOk p m) (he : EventInRecord p e) :
    StoreOk p (nvApply m e) := by
  cases e with
  | nvWrite a v => exact storeOk_write h he v
  | nvRead a v => exact h
  | xchg o i => exact h
  | select => exact h
  | release => exact h
  | setClock r => exact h
  | delay d => exact h

theorem storeOk_foldl {p : Params} {m : Memory} {es : List Event} (h : StoreOk p m)
    (he : ∀ e ∈ es, EventInRecord p e) : StoreOk p (es.foldl nvApply m) := by
  induction es generalizing m with
  | nil => exact h
  | cons e es ih =>
    exact ih (storeOk_nvApply h (he e List.mem_cons_self)) fun e' h' => he e' (List.mem_cons_of_mem _ h')

/-- A write cut by a power loss leaves a byte of the record with any value (R70). -/
theorem storeOk_nvCut {p : Params} {m : Memory} {next : Option Event} (h : StoreOk p m)
    (hnext : ∀ e, next = some e → EventInRecord p e) (cut : Byte) : StoreOk p (nvCut m next cut) := by
  unfold nvCut
  split
  · next a v => exact storeOk_write h (hnext _ rfl) cut
  · exact h

/-- Everything that runs keeps the store's part of the invariant. -/
theorem Ran.storeOk {s t : State} (h : Ran s t) (hs : StoreOk s.cfg s.nv) : StoreOk t.cfg t.nv := by
  obtain ⟨new, -, hnv, -, -, hrecord, hcfg, -⟩ := h
  rw [hnv, hcfg]
  exact storeOk_foldl hs hrecord

/-! ### The invariant between host operations -/

/-- No page is open (R27, R275). -/
def PageClosed (s : State) : Prop := s.mode = .idle ∧ s.offset = 0

/-- A page is open, at an offset inside it (R275). -/
def PageOpen (s : State) : Prop :=
  (s.mode = .midRead ∨ s.mode = .midWrite) ∧ s.sel = true ∧ 1 ≤ s.offset.toNat ∧ s.offset.toNat ≤ 511

/-- The invariant's part between host operations that does not say whether a page is open. -/
def Standing (s : State) : Prop :=
  s.seq = .ready ∧ s.version ≠ .reserved ∧ s.flags.reservedBits = 0 ∧ s.flags.abortCode.toNat ≤ 8 ∧ CursorsInRange s ∧
    (s.version ≠ .unset → s.cidWritten = true ∧ s.csdWritten = true)

/-- What the data operations' procedures keep includes `Standing`. -/
theorem Kept.standing {s t : State} (h : Kept s t) (hs : Standing s) : Standing t := by
  obtain ⟨hseq, hversion, hreserved, habort, hcursors, hwritten⟩ := hs
  obtain ⟨cversion, -, -, -, -, -, ccid, ccsd, -⟩ := h.card
  refine ⟨h.seq hseq, ?_, ?_, ?_, h.cursors hcursors, ?_⟩
  · rwa [cversion]
  · rwa [h.reservedBits]
  · rwa [h.abortCode]
  · rwa [cversion, ccid, ccsd]

/-- The invariant's register part: between host operations, or at INIT's loop (R191, R197, R275). -/
def RegistersOk (s : State) : Prop :=
  (Standing s ∧ (PageClosed s ∨ PageOpen s ∧ s.version ≠ .unset)) ∨ (s.seq = .initLoop ∧ loopRegisters s = true)

/-- The registers that step 1 of INIT resets and no SEND of steps 1 to 5 writes, CMD_TIMEOUT apart (R191). -/
def InitRegisters (s : State) : Prop :=
  s.capacity = .sc ∧ s.totalPages = 0 ∧ s.rdCursor = 0 ∧ s.wrCursor = 0 ∧ s.offset = 0 ∧ s.mode = .idle ∧ s.crc16 = 0 ∧
    { s.flags with cmdTimeout := false } = Flags.zero

/-- The version is classified, with its INIT_ARG (R194). -/
def Classified (s : State) : Prop := s.version = .v1 ∧ s.initArg = 0 ∨ s.version = .v2 ∧ s.initArg = hcsArg

theorem loopRegisters_iff (s : State) :
    loopRegisters s = true ↔
      Classified s ∧ InitRegisters s ∧ s.flags.cmdTimeout = false ∧ s.sel = false ∧ s.clk = .at .fast := by
  have hflags : s.flags = Flags.zero ↔
      { s.flags with cmdTimeout := false } = Flags.zero ∧ s.flags.cmdTimeout = false := by
    obtain ⟨_, _, _, _, _, _, _, _, _, _⟩ := s.flags
    simp [Flags.zero]
    tauto
  simp only [loopRegisters, Classified, InitRegisters, Bool.and_eq_true, Bool.or_eq_true, beq_iff_eq, Bool.not_eq_true',
    hflags]
  tauto

/-- The parts make the invariant where no page is open. -/
theorem inv_of_closed {s : State} (hs : Standing s) (hp : PageClosed s) (hstore : StoreOk s.cfg s.nv) : Inv s := by
  obtain ⟨hseq, hversion, hreserved, habort, hcursors, hwritten⟩ := hs
  obtain ⟨hm, ho⟩ := hp
  have hnotLoop : s.seq ≠ .initLoop := by simp [hseq]
  refine ⟨(launchFault_none_iff s).2 ⟨?_, hversion, ?_, fun h => absurd hm h, fun h => absurd h hnotLoop, hreserved,
    habort⟩, fun _ => ho, fun h => absurd hm h, hcursors, fun _ => hwritten, fun h => absurd h hnotLoop, hstore.1,
    hstore.2⟩
  · simp [hm]
  · simp [ho]

/-- The parts make the invariant where a page is open. -/
theorem inv_of_open {s : State} (hs : Standing s) (hp : PageOpen s) (hv : s.version ≠ .unset)
    (hstore : StoreOk s.cfg s.nv) : Inv s := by
  obtain ⟨hseq, hversion, hreserved, habort, hcursors, hwritten⟩ := hs
  obtain ⟨hm, hsel, h1, h511⟩ := hp
  have hnotLoop : s.seq ≠ .initLoop := by simp [hseq]
  have hmode : s.mode ≠ .reserved ∧ s.mode ≠ .idle := by rcases hm with hm | hm <;> simp [hm]
  exact ⟨(launchFault_none_iff s).2 ⟨hmode.1, hversion, by omega, fun _ => ⟨hsel, hv⟩, fun h => absurd h hnotLoop,
    hreserved, habort⟩, fun h => absurd h hmode.2, fun _ => ⟨h1, h511, hsel⟩, hcursors, fun _ => hwritten,
    fun h => absurd h hnotLoop, hstore.1, hstore.2⟩

/-- INIT's loop registers make the invariant at the loop. -/
theorem inv_of_loop {s : State} (hseq : s.seq = .initLoop) (hloop : loopRegisters s = true)
    (hstore : StoreOk s.cfg s.nv) : Inv s := by
  obtain ⟨hclass, ⟨-, htotal, hrd, hwr, ho, hm, -, hzero⟩, hcmd, -⟩ := (loopRegisters_iff s).1 hloop
  have hversion : s.version = .v1 ∨ s.version = .v2 := hclass.imp And.left And.left
  have hreserved : s.flags.reservedBits = 0 := congrArg Flags.reservedBits hzero
  have habort : s.flags.abortCode = 0 := congrArg Flags.abortCode hzero
  refine ⟨(launchFault_none_iff s).2 ⟨?_, ?_, ?_, fun h => absurd hm h, fun _ => hloop, hreserved, ?_⟩, fun _ => ho,
    fun h => absurd hm h, ?_, fun h => absurd hseq h, fun _ => ⟨hm, hversion, htotal⟩, hstore.1, hstore.2⟩
  · simp [hm]
  · rcases hversion with h | h <;> simp [h]
  · simp [ho]
  · simp [habort]
  · simp [CursorsInRange, htotal, hrd, hwr]

/-- The register part and the store's part make the invariant. -/
theorem inv_of_registersOk {s : State} (h : RegistersOk s) (hstore : StoreOk s.cfg s.nv) : Inv s := by
  obtain ⟨hs, hp | ⟨hp, hv⟩⟩ | ⟨hseq, hloop⟩ := h
  · exact inv_of_closed hs hp hstore
  · exact inv_of_open hs hp hv hstore
  · exact inv_of_loop hseq hloop hstore

theorem registersOk_not_framing {s : State} (h : RegistersOk s) (f : Frame) : s.seq ≠ .framing f := by
  obtain ⟨⟨hseq, -⟩, -⟩ | ⟨hseq, -⟩ := h <;> simp [hseq]

/-- In a state of the invariant that is not at INIT's loop, the request at hand runs in a standing state. -/
theorem Inv.standing {s : State} (h : Inv s) (hs : s.seq ≠ .initLoop) (inbox : List HostWord) :
    Standing { s with seq := .ready, inbox := inbox } := by
  obtain ⟨-, hversion, -, -, -, hreserved, habort⟩ := (launchFault_none_iff s).1 h.launch
  exact ⟨rfl, hversion, hreserved, habort, h.cursors, h.described hs⟩

/-- A state of the invariant has no page open or one that is open. -/
theorem Inv.page {s : State} (h : Inv s) : PageClosed s ∨ PageOpen s := by
  obtain ⟨hmode, -⟩ := (launchFault_none_iff s).1 h.launch
  cases hm : s.mode with
  | idle => exact .inl ⟨hm, h.idleOffset hm⟩
  | midRead =>
    obtain ⟨h1, h511, hsel⟩ := h.openOffset (by simp [hm])
    exact .inr ⟨.inl hm, hsel, h1, h511⟩
  | midWrite =>
    obtain ⟨h1, h511, hsel⟩ := h.openOffset (by simp [hm])
    exact .inr ⟨.inr hm, hsel, h1, h511⟩
  | reserved => exact absurd hm hmode

/-- A page is open only on a negotiated card (R42). -/
theorem Inv.negotiated {s : State} (h : Inv s) (hp : PageOpen s) : s.version ≠ .unset := by
  obtain ⟨-, -, -, hopen, -⟩ := (launchFault_none_iff s).1 h.launch
  exact (hopen (by rcases hp.1 with hm | hm <;> simp [hm])).2

/-- Settles O48: at reset no page is open, both cursors are 0, and the NV store lists nothing. -/
theorem resetKeepsInv : Obligations.ResetKeepsInv :=
  inv_of_closed ⟨rfl, by decide, rfl, by decide, by unfold CursorsInRange; decide, fun h => absurd rfl h⟩ ⟨rfl, rfl⟩
    ⟨rfl, fun _ h => by cases h⟩

/-! ### The data operations -/

theorem BusOnly.closed {s t : State} (h : BusOnly s t) (hp : PageClosed s) : PageClosed t := by
  obtain ⟨x, rfl⟩ := h
  exact hp

theorem closed_persistWith {s : State} (tag : List Byte) (h : PageClosed s) : PageClosed (persistWith tag s) := by
  rw [persistWith_eq]
  exact h

theorem closed_afterReadEnd (m : Nat) (s : State) : PageClosed (afterReadEnd m s) :=
  closed_persistWith _ ⟨rfl, rfl⟩

theorem closed_afterWriteEnd (s : State) : PageClosed (afterWriteEnd s) := by
  unfold afterWriteEnd
  split
  · exact closed_persistWith _ ⟨rfl, rfl⟩
  · exact ⟨rfl, rfl⟩

/-- One byte more inside the page, short of its last (R26). -/
theorem offset_succ_inside {o : BitVec 10} (ho : o.toNat ≤ 511) (h : (o + 1).toNat ≠ pageBytes) :
    1 ≤ (o + 1).toNat ∧ (o + 1).toNat ≤ 511 := by
  unfold pageBytes at h
  simp [BitVec.toNat_add] at h ⊢
  omega

/-- READ_STEP leaves the page open at the next offset, or ends it (R262, R275). -/
theorem page_readStep {s t : State} {b : Byte} (hm : s.mode = .midRead) (hsel : s.sel = true)
    (ho : s.offset.toNat ≤ 511) (h : readStep s = .ok (b, t)) : PageClosed t ∨ PageOpen t := by
  obtain ⟨hin, rfl⟩ | ⟨-, m, rfl⟩ := readStep_cases h
  · exact .inr ⟨.inl hm, hsel, offset_succ_inside ho hin⟩
  · exact .inl (closed_afterReadEnd m _)

/-- WRITE_STEP leaves the page open at the next offset, or ends it (R264, R275). -/
theorem page_writeStep {s t : State} {v : Byte} (hm : s.mode = .midWrite) (hsel : s.sel = true)
    (ho : s.offset.toNat ≤ 511) (h : writeStep v s = .ok t) : PageClosed t ∨ PageOpen t := by
  obtain ⟨hin, rfl⟩ | ⟨-, rfl⟩ := writeStep_cases h
  · exact .inr ⟨.inr hm, hsel, offset_succ_inside ho hin⟩
  · exact .inl (closed_afterWriteEnd _)

/-- FORCE_COMPLETE leaves no page open (R266). -/
theorem closed_forceComplete {s t : State} (hc : s.cidWritten = true) (hp : PageClosed s ∨ PageOpen s)
    (h : forceComplete s = .ok t) : PageClosed t := by
  obtain hp | ⟨hm | hm, -, -, h511⟩ := hp
  · rw [forceComplete_idle hp.1] at h
    injection h with h
    exact h ▸ hp
  · obtain ⟨m, -, hd⟩ := forceComplete_discard hm (by omega) hc
    rw [hd] at h
    injection h with h
    exact h ▸ closed_afterReadEnd m _
  · rw [forceComplete_pad hm (by omega) hc] at h
    injection h with h
    exact h ▸ closed_afterWriteEnd _

/-- Where READ and WRITE complete a page of the other kind, what is left is no page, or one that is not of that kind. -/
theorem page_forceCompleteIf {s t : State} {m : Mode} (hc : s.cidWritten = true) (hp : PageClosed s ∨ PageOpen s)
    (h : (if s.mode = m then forceComplete s else .ok s) = .ok t) : PageClosed t ∨ PageOpen t ∧ t.mode ≠ m := by
  split at h
  · exact .inl (closed_forceComplete hc hp h)
  · next hm =>
    injection h with h
    subst h
    exact hp.imp_right fun hp => ⟨hp, hm⟩

theorem readOpenPage_opens (s : State) :
    (readOpenPage s).mode = .midRead ∧ (readOpenPage s).sel = true ∧ (readOpenPage s).offset = 0 := by
  obtain ⟨k, j, -, -, h⟩ := readOpenPage_spec s
  rw [h]
  simp [afterReadOpenPage, afterReadOpen, afterSend]

theorem writeOpenPage_opens (s : State) :
    (writeOpenPage s).mode = .midWrite ∧ (writeOpenPage s).sel = true ∧ (writeOpenPage s).offset = 0 := by
  obtain ⟨k, -, h⟩ := writeOpenPage_spec s
  rw [h]
  simp [afterWriteOpenPage, afterSend]

/-- The page READ takes its byte from (R268). -/
theorem readPage_ready {u : State} (h : PageClosed u ∨ PageOpen u ∧ u.mode ≠ .midWrite) :
    let v := if u.mode = .idle then readOpenPage u else u
    v.mode = .midRead ∧ v.sel = true ∧ v.offset.toNat ≤ 511 := by
  obtain ⟨hm, -⟩ | ⟨⟨hm | hm, hsel, -, h511⟩, hne⟩ := h
  · obtain ⟨hm', hsel, ho⟩ := readOpenPage_opens u
    simp [hm, hm', hsel, ho]
  · simpa [hm] using ⟨hsel, h511⟩
  · exact absurd hm hne

/-- The page WRITE sends its byte to (R269). -/
theorem writePage_ready {u : State} (h : PageClosed u ∨ PageOpen u ∧ u.mode ≠ .midRead) :
    let v := if u.mode = .idle then writeOpenPage u else u
    v.mode = .midWrite ∧ v.sel = true ∧ v.offset.toNat ≤ 511 := by
  obtain ⟨hm, -⟩ | ⟨⟨hm | hm, hsel, -, h511⟩, hne⟩ := h
  · obtain ⟨hm', hsel, ho⟩ := writeOpenPage_opens u
    simp [hm, hm', hsel, ho]
  · exact absurd hm hne
  · simpa [hm] using ⟨hsel, h511⟩

/-- Presenting a result word opens or closes no page. -/
theorem page_returnWord {s : State} (w : HostWord) (h : PageClosed s ∨ PageOpen s) :
    PageClosed (returnWord w s) ∨ PageOpen (returnWord w s) := h

/-- A data operation ends with no page open, or with one open inside it (R275). -/
theorem DataRun.page {s t : State} (h : DataRun s t) (hc : s.cidWritten = true) (hp : PageClosed s ∨ PageOpen s) :
    PageClosed t ∨ PageOpen t := by
  cases h with
  | read h =>
    obtain ⟨u, v, b, hu, hv, rfl⟩ := readBody_cases h
    obtain ⟨hm, hsel, ho⟩ := readPage_ready (page_forceCompleteIf hc hp hu)
    exact page_returnWord _ (page_readStep hm hsel ho hv)
  | write d h =>
    obtain ⟨u, v, hu, hv, rfl⟩ := writeBody_cases h
    obtain ⟨hm, hsel, ho⟩ := writePage_ready (page_forceCompleteIf hc hp hu)
    exact page_returnWord _ (page_writeStep hm hsel ho hv)
  | erase h =>
    obtain ⟨u, hu, rfl⟩ := eraseBody_cases h
    have hclosed : PageClosed u := closed_forceComplete hc hp hu
    have hmoved : PageClosed { u with rdCursor := u.wrCursor } := hclosed
    exact page_returnWord _ (.inl (closed_persistWith _ hmoved))
  | getStatus h =>
    obtain ⟨u, w, hu, rfl⟩ := getStatusBody_cases h
    exact page_returnWord _ (.inl ((busOnly_send (by decide) _ _ _ u).closed (closed_forceComplete hc hp hu)))

/-- A data operation keeps the register part of the invariant. -/
theorem DataRun.registersOk {s t : State} (h : DataRun s t) (hs : Standing s) (hp : PageClosed s ∨ PageOpen s)
    (hv : s.version ≠ .unset) : RegistersOk t := by
  obtain ⟨-, -, -, -, -, hwritten⟩ := id hs
  obtain ⟨hversion, -⟩ := h.kept.card
  exact .inl ⟨h.kept.standing hs, (h.page (hwritten hv).1 hp).imp_right fun hopen => ⟨hopen, hversion ▸ hv⟩⟩

/-! ### The bare commands -/

/-- What a bare command writes: bus registers, and a descriptor with its mark (R160 to R170, log entry 21). -/
inductive CommandRun (s t : State) : Prop where
  | send (h : BusOnly s t)
  | cid {u : State} (d : Descriptor) (h : BusOnly s u) (ht : t = { u with cid := d, cidWritten := true })
  | csd {u : State} (d : Descriptor) (h : BusOnly s u) (ht : t = { u with csd := d, csdWritten := true })

theorem readCidDescriptor_cases (s : State) :
    ∃ u d, BusOnly s u ∧ readCidDescriptor s = { u with cid := d, cidWritten := true } :=
  ⟨_, _, busOnly_readDescriptorBytes idxReadCid s, rfl⟩

theorem readCsdDescriptor_cases (s : State) :
    ∃ u d, BusOnly s u ∧ readCsdDescriptor s = { u with csd := d, csdWritten := true } :=
  ⟨_, _, busOnly_readDescriptorBytes idxReadCsd s, rfl⟩

theorem commandRun_send {shape : Shape} {idx : BitVec 6} {arg : Word} {keep : Bool} {s t : State}
    (hshape : shape ≠ .r1b) (h : (Host.Outcome.next (send idx arg shape keep s) : Outcome) = .next t) :
    CommandRun s t := by
  injection h with h
  exact h ▸ .send (busOnly_send hshape idx arg keep s)

/-- A bare command keeps the register part of the invariant. -/
theorem CommandRun.registersOk {s t : State} (h : CommandRun s t) (hs : Standing s) (hp : PageClosed s) :
    RegistersOk t := by
  obtain ⟨hseq, hversion, hreserved, habort, hcursors, hwritten⟩ := id hs
  cases h with
  | send h => exact .inl ⟨h.kept.standing hs, .inl (h.closed hp)⟩
  | cid d h ht =>
    obtain ⟨x, rfl⟩ := h
    subst ht
    exact .inl ⟨⟨hseq, hversion, hreserved, habort, hcursors, fun h => ⟨rfl, (hwritten h).2⟩⟩, .inl hp⟩
  | csd d h ht =>
    obtain ⟨x, rfl⟩ := h
    subst ht
    exact .inl ⟨⟨hseq, hversion, hreserved, habort, hcursors, fun h => ⟨(hwritten h).1, rfl⟩⟩, .inl hp⟩

/-- The three kinds of operation, each with what it ran where it answers a next state. -/
theorem exec_cases {i : Instr} {s t : State} (h : exec i s = .next t) :
    Launched s ∧
      (t = initStart s ∨ (s.version ≠ .unset ∧ DataRun s t) ∨ (s.mode = .idle ∧ CommandRun s t)) := by
  cases i
  case init =>
    obtain ⟨hl, h⟩ := whenLaunched_next h
    injection h with h
    exact ⟨hl, .inl h.symm⟩
  case read => exact (dataRun_of_exec (.inl rfl) h).imp_right fun h => .inr (.inl h)
  case write v => exact (dataRun_of_exec (.inr (.inl ⟨v, rfl⟩)) h).imp_right fun h => .inr (.inl h)
  case erase => exact (dataRun_of_exec (.inr (.inr (.inl rfl))) h).imp_right fun h => .inr (.inl h)
  case getStatus => exact (dataRun_of_exec (.inr (.inr (.inr rfl))) h).imp_right fun h => .inr (.inl h)
  case readBlock | writeBlock =>
    obtain ⟨hl, hm, h⟩ := whenNoPageOpen_next h
    exact ⟨hl, .inr (.inr ⟨hm, commandRun_send (by decide) (whenPageArg_next h).2⟩)⟩
  case readCid =>
    obtain ⟨hl, hm, h⟩ := whenNoPageOpen_next h
    injection h with h
    obtain ⟨u, d, hb, he⟩ := readCidDescriptor_cases s
    exact ⟨hl, .inr (.inr ⟨hm, .cid d hb (h.symm.trans he)⟩)⟩
  case readCsd =>
    obtain ⟨hl, hm, h⟩ := whenNoPageOpen_next h
    injection h with h
    obtain ⟨u, d, hb, he⟩ := readCsdDescriptor_cases s
    exact ⟨hl, .inr (.inr ⟨hm, .csd d hb (h.symm.trans he)⟩)⟩
  all_goals
    obtain ⟨hl, hm, h⟩ := whenNoPageOpen_next h
    exact ⟨hl, .inr (.inr ⟨hm, commandRun_send (by decide) h⟩)⟩

end Sys2Proof.Machine
end

section
/-! The state statements, fourth part: INIT keeps the invariant, and with it every step (R42, R191, R275, R342). -/

namespace Sys2Proof.Machine

/-! ### RECOVER -/

/-- Whether the record's tag is the card's (R303, R311). -/
def tagMatches (s : State) : Bool := (recordOf s.cfg s.nv).take 5 == idTag s.cid

/-- What RECOVER leaves in the registers it writes (R303 to R308, R311); the rest of the state it keeps, but for CRC7, the
NV store and the trace. -/
theorem recover_eq (s : State) :
    recover s = { s with
      rdCursor := if tagMatches s then clamp s.totalPages (resolveRead (recordOf s.cfg s.nv)).1 else s.rdCursor
      wrCursor := if tagMatches s then clamp s.totalPages (resolveWrite (recordOf s.cfg s.nv)).1 else s.wrCursor
      flags := { s.flags with
        idMismatch := !tagMatches s
        recordCorrupt := tagMatches s &&
          !((resolveRead (recordOf s.cfg s.nv)).2 && (resolveWrite (recordOf s.cfg s.nv)).2) }
      crc7 := (recover s).crc7
      nv := (recover s).nv
      events := (recover s).events } := by
  have hread : (nvReadFrom 0 recordBytes s).1 = recordOf s.cfg s.nv := by
    rw [nvReadFrom_eq, recordOf, List.range_eq_range']
  unfold recover
  dsimp only
  rw [hread]
  by_cases hm : (recordOf s.cfg s.nv).take 5 = idTag s.cid
  · have ht : tagMatches s = true := by simp [tagMatches, hm]
    simp only [hm, ht, if_true, nvReadFrom_eq, recoverMatch, Bool.not_true, Bool.true_and, Bool.not_and]
  · have ht : tagMatches s = false := by simp [tagMatches, hm]
    simp only [hm, ht, if_false, nvReadFrom_eq, recoverMismatch, Bool.not_false, Bool.false_and, Bool.false_eq_true]
    split
    · simp only [persistWith_eq]
    · simp only [nvWriteImage_eq]

/-! ### How INIT leaves the registers -/

/-- The registers of INIT from step 2 on, before RECOVER (R191, R205). -/
def Negotiating (s : State) : Prop :=
  s.version ≠ .reserved ∧ PageClosed s ∧ s.totalPages = 0 ∧ s.rdCursor = 0 ∧ s.wrCursor = 0 ∧
    s.flags.reservedBits = 0 ∧ s.flags.abortCode = 0 ∧ s.flags.wrCrcOk = false

/-- INIT has returned: no page is open, and WR_CRC_OK has its INIT value (R37, R191). -/
def InitEnded (t : State) : Prop := Standing t ∧ PageClosed t ∧ t.flags.wrCrcOk = false

/-- The two ways a transition of INIT leaves the registers: INIT has returned, or goes round its loop (R197). -/
def InitLeaves (t : State) : Prop := InitEnded t ∨ (t.seq = .initLoop ∧ loopRegisters t = true)

theorem InitLeaves.registersOk {t : State} (h : InitLeaves t) : RegistersOk t :=
  h.imp_left fun ⟨hs, hp, _⟩ => ⟨hs, .inl hp⟩

theorem InitLeaves.wrCrcOk {t : State} (h : InitLeaves t) : t.flags.wrCrcOk = false := by
  obtain ⟨-, -, hw⟩ | ⟨-, hloop⟩ := h
  · exact hw
  · obtain ⟨-, ⟨-, -, -, -, -, -, -, hzero⟩, -⟩ := (loopRegisters_iff t).1 hloop
    exact congrArg Flags.wrCrcOk hzero

theorem BusOnly.negotiating {s t : State} (h : BusOnly s t) (hs : Negotiating s) : Negotiating t := by
  obtain ⟨x, rfl⟩ := h
  exact hs

theorem BusOnly.classified {s t : State} (h : BusOnly s t) (hs : Classified s) : Classified t := by
  obtain ⟨x, rfl⟩ := h
  exact hs

theorem BusOnly.clk {s t : State} (h : BusOnly s t) : t.clk = s.clk := by
  obtain ⟨x, rfl⟩ := h
  rfl

theorem BusOnly.version {s t : State} (h : BusOnly s t) : t.version = s.version := by
  obtain ⟨x, rfl⟩ := h
  rfl

theorem negotiating_of_initRegisters {s : State} (h : InitRegisters s) (hv : s.version ≠ .reserved) :
    Negotiating s := by
  obtain ⟨-, htotal, hrd, hwr, ho, hm, -, hzero⟩ := h
  exact ⟨hv, ⟨hm, ho⟩, htotal, hrd, hwr, congrArg Flags.reservedBits hzero, congrArg Flags.abortCode hzero,
    congrArg Flags.wrCrcOk hzero⟩

theorem Classified.known {s : State} (h : Classified s) : s.version ≠ .reserved := by
  obtain ⟨h, -⟩ | ⟨h, -⟩ := h <;> simp [h]

/-- A SEND writes of those registers CMD_TIMEOUT only, which says whether R1 is the idle marker (R152). -/
theorem initRegisters_send {shape : Shape} (hshape : shape ≠ .r1b) (idx : BitVec 6) (arg : Word) {s : State}
    (h : InitRegisters s) :
    InitRegisters (send idx arg shape false s) ∧ (send idx arg shape false s).sel = false ∧
      (send idx arg shape false s).flags.cmdTimeout = ((send idx arg shape false s).lastR1 == idleByte) := by
  obtain ⟨k, -, he⟩ := send_spec idx arg shape false s hshape
  rw [he]
  refine ⟨?_, ?_, ?_⟩
  · simpa only [InitRegisters, afterSend, exchanged, select, emit] using h
  · simp only [afterSend]
  · simp only [afterSend]

/-! ### The steps of INIT, from the last to the first -/

/-- The abort codes are 1 to 8 (R332). -/
theorem abortBits_le (c : AbortCode) : (abortBits c).toNat ≤ 8 := by cases c <;> decide

theorem initEnded_abort (c : AbortCode) {s : State} (h : Negotiating s) : InitEnded (abort c s) := by
  obtain ⟨-, hp, htotal, hrd, hwr, hreserved, -, hw⟩ := h
  refine ⟨⟨rfl, ?_, hreserved, ?_, ?_, fun h => absurd rfl h⟩, hp, hw⟩
  · nofun
  · exact abortBits_le c
  · exact (cursorsInRange_iff _).2 ⟨hrd ▸ inRange_zero _, hwr ▸ inRange_zero _⟩

/-- Steps 9 and 10 (R202, R203): the cursors that RECOVER gives are 0 or clamped. -/
theorem initEnded_initRecover {s : State} (h : Negotiating s) (hcid : s.cidWritten = true)
    (hcsd : s.csdWritten = true) : InitEnded (initRecover s) := by
  obtain ⟨hv, hp, -, hrd, hwr, hreserved, habort, hw⟩ := h
  unfold initRecover
  rw [recover_eq]
  generalize recover (initPageCount s) = r
  refine ⟨⟨rfl, hv, hreserved, ?_, ?_, fun _ => ⟨hcid, hcsd⟩⟩, hp, hw⟩
  · exact le_of_eq_of_le (congrArg BitVec.toNat habort) (by decide)
  · refine (cursorsInRange_iff _).2 ⟨?_, ?_⟩
    · show InRange _ (if _ then _ else _)
      split
      · exact inRange_clamp _ _
      · exact hrd ▸ inRange_zero _
    · show InRange _ (if _ then _ else _)
      split
      · exact inRange_clamp _ _
      · exact hwr ▸ inRange_zero _

/-- Step 8 (R201): each descriptor read writes its mark. -/
theorem initEnded_initDescriptors {s : State} (h : Negotiating s) : InitEnded (initDescriptors s) := by
  obtain ⟨u, d, hb, hcid⟩ := readCidDescriptor_cases s
  have hu : Negotiating (readCidDescriptor s) := by rw [hcid]; exact hb.negotiating h
  have hcidWritten : (readCidDescriptor s).cidWritten = true := by rw [hcid]
  unfold initDescriptors
  generalize readCidDescriptor s = t at hu hcidWritten
  obtain ⟨v, e, hb', hcsd⟩ := readCsdDescriptor_cases t
  have hv : Negotiating (readCsdDescriptor t) := by rw [hcsd]; exact hb'.negotiating hu
  have hmarks : (readCsdDescriptor t).cidWritten = true ∧ (readCsdDescriptor t).csdWritten = true := by
    obtain ⟨x, rfl⟩ := hb'
    rw [hcsd]
    exact ⟨hcidWritten, rfl⟩
  dsimp only
  split
  · split
    · exact initEnded_initRecover hv hmarks.1 hmarks.2
    · exact initEnded_abort _ hv
  · exact initEnded_abort _ hu

/-- Step 7 (R200). -/
theorem initEnded_initBlocklen {s : State} (h : Negotiating s) : InitEnded (initBlocklen s) := by
  have ht := (busOnly_send (shape := .r1) (by decide) idxSetBlocklen blocklenArg false s).negotiating h
  unfold initBlocklen
  generalize send idxSetBlocklen blocklenArg .r1 false s = t at ht
  dsimp only
  split
  · exact initEnded_initDescriptors ht
  · exact initEnded_abort _ ht

/-- Step 6 (R199): CAPACITY may be set. -/
theorem initEnded_initOcr {s : State} (h : Negotiating s) : InitEnded (initOcr s) := by
  have ht := (busOnly_send (shape := .r3) (by decide) idxReadOcr 0 false s).negotiating h
  unfold initOcr
  generalize send idxReadOcr 0 .r3 false s = t at ht
  dsimp only
  split
  · split
    · have hcap : Negotiating { t with capacity := if ocrCcs t.respPayload then .hc else .sc } := ht
      exact initEnded_initBlocklen hcap
    · exact initEnded_abort _ ht
  · exact initEnded_initBlocklen h

/-- Step 5 (R197): where the card is still idle, its R1 was a response, so CMD_TIMEOUT is clear at the loop. -/
theorem initLeaves_initLoopRound {s : State} (hc : Classified s) (hi : InitRegisters s) (hclk : s.clk = .at .fast) :
    InitLeaves (initLoopRound s) := by
  have hb := busOnly_send (shape := .r1) (by decide) idxAppPrefix 0 false s
  have hi₁ := (initRegisters_send (shape := .r1) (by decide) idxAppPrefix 0 hi).1
  unfold initLoopRound
  generalize send idxAppPrefix 0 .r1 false s = t at hb hi₁
  have hb₂ := hb.trans (busOnly_send (shape := .r1) (by decide) idxInitOp t.initArg false t)
  obtain ⟨hi₂, hsel, hcmd⟩ := initRegisters_send (shape := .r1) (by decide) idxInitOp t.initArg hi₁
  dsimp only
  generalize send idxInitOp t.initArg .r1 false t = u at hb₂ hi₂ hsel hcmd
  have hn : Negotiating u := negotiating_of_initRegisters hi₂ (hb₂.classified hc).known
  split
  · exact .inl (initEnded_initOcr hn)
  · split
    · next h1 =>
      rw [h1] at hcmd
      have hloop : loopRegisters u = true :=
        (loopRegisters_iff u).2 ⟨hb₂.classified hc, hi₂, hcmd, hsel, hb₂.clk.trans hclk⟩
      exact .inr ⟨rfl, hloop⟩
    · exact .inl (initEnded_abort _ hn)

/-- Steps 3 and 4 (R195, R196). -/
theorem initLeaves_initEcho {s : State} (hc : Classified s) (hi : InitRegisters s) : InitLeaves (initEcho s) := by
  unfold initEcho
  split
  · exact .inl (initEnded_abort _ (negotiating_of_initRegisters hi hc.known))
  · exact initLeaves_initLoopRound (s := initFastClock s) hc hi rfl

/-- Step 2 (R194): the only versions it sets are the two it classifies. -/
theorem initLeaves_initClassify {s : State} (hi : InitRegisters s) (hv : s.version ≠ .reserved) :
    InitLeaves (initClassify s) := by
  have hb := busOnly_send (shape := .r7) (by decide) idxIfCond ifCondArg false s
  have hi' := (initRegisters_send (shape := .r7) (by decide) idxIfCond ifCondArg hi).1
  unfold initClassify
  generalize send idxIfCond ifCondArg .r7 false s = t at hb hi'
  dsimp only
  split
  · next v hclass =>
    have hknown : v = .v1 ∨ v = .v2 := by
      unfold classifyR1 at hclass
      split_ifs at hclass <;> simp_all
    have hregs : InitRegisters { t with version := v, initArg := if v = .v2 then hcsArg else 0 } := hi'
    refine initLeaves_initEcho ?_ hregs
    rcases hknown with rfl | rfl
    · exact .inl ⟨rfl, rfl⟩
    · exact .inr ⟨rfl, rfl⟩
  · exact .inl (initEnded_abort _ (negotiating_of_initRegisters hi' (hb.version ▸ hv)))

/-- INIT from its start, in any state (R190 to R193). -/
theorem initLeaves_initStart (s : State) : InitLeaves (initStart s) := by
  have hi : InitRegisters (initIdleClocks (initReset s)) ∧ (initIdleClocks (initReset s)).version = .unset := by
    unfold initIdleClocks
    rw [sendBytes_eq]
    exact ⟨⟨rfl, rfl, rfl, rfl, rfl, rfl, rfl, rfl⟩, rfl⟩
  have hb := busOnly_send (shape := .r1) (by decide) idxGoIdle 0 false (initIdleClocks (initReset s))
  have hi' := (initRegisters_send (shape := .r1) (by decide) idxGoIdle 0 hi.1).1
  unfold initStart
  generalize send idxGoIdle 0 .r1 false (initIdleClocks (initReset s)) = t at hb hi'
  have hv : t.version ≠ .reserved := by simp [hb.version, hi.2]
  dsimp only
  split
  · exact initLeaves_initClassify hi' hv
  · exact .inl (initEnded_abort _ (negotiating_of_initRegisters hi' hv))

/-- A round of INIT's loop, from the loop's registers (R197). -/
theorem initLeaves_of_loopRegisters {s : State} (h : loopRegisters s = true) : InitLeaves (initLoopRound s) := by
  obtain ⟨hc, hi, -, -, hclk⟩ := (loopRegisters_iff s).1 h
  exact initLeaves_initLoopRound hc hi hclk

/-! ### Every step keeps the invariant -/

/-- An operation that runs in a standing state keeps the register part of the invariant. -/
theorem registersOk_exec {i : Instr} {s t : State} (h : exec i s = .next t) (hs : Standing s)
    (hp : PageClosed s ∨ PageOpen s) : RegistersOk t := by
  obtain ⟨-, rfl | ⟨hv, hrun⟩ | ⟨hm, hrun⟩⟩ := exec_cases h
  · exact (initLeaves_initStart s).registersOk
  · exact hrun.registersOk hs hp hv
  · refine hrun.registersOk hs (hp.resolve_right fun ⟨hopen, _⟩ => ?_)
    rcases hopen with h | h <;> simp [hm] at h

/-- A transition with no power loss in it keeps the register part of the invariant. -/
theorem registersOk_cycle {s t : State} (hs : Inv s) (h : cycle s = .next t) : RegistersOk t := by
  obtain ⟨hl, ⟨hseq, -, rfl⟩ | ⟨_, rest, i, hseq, -, -, he⟩ | ⟨hseq, rfl⟩ | ⟨f, i, hseq, -, he⟩⟩ := cycle_cases h
  · have hst := hs.standing (by simp [hseq]) t.inbox
    rw [← hseq] at hst
    exact .inl ⟨hst, hs.page.imp_right fun hopen => ⟨hopen, hs.negotiated hopen⟩⟩
  · have hst := hs.standing (by simp [hseq]) rest
    rw [← hseq] at hst
    exact registersOk_exec he hst hs.page
  · obtain ⟨-, -, -, -, hloop, -⟩ := (launchFault_none_iff s).1 hl
    exact (initLeaves_of_loopRegisters (hloop hseq)).registersOk
  · exact registersOk_exec he (hs.standing (by simp [hseq]) s.inbox) hs.page

/-- A transition with no power loss in it keeps the store's part of the invariant. -/
theorem storeOk_cycle {s t : State} (hs : Inv s) (h : cycle s = .next t) : StoreOk t.cfg t.nv := by
  obtain ⟨inbox, hran⟩ := ran_cycle h
  exact hran.storeOk ⟨hs.nvCanonical, hs.nvSpace⟩

/-- After a power loss the registers are at their reset values, and a cut write was within the record (R70, R360). -/
theorem inv_afterPowerLoss {s u : State} (hs : Inv s) (h : cycle s = .next u) (n : Nat) (cut : Byte) :
    Inv (afterPowerLoss s u.inbox ((u.events.drop s.events.length).take n)
      ((u.events.drop s.events.length).drop n).head? cut) := by
  obtain ⟨inbox, new, hevents, -, -, -, hrecord, -⟩ := ran_cycle h
  have hnew : u.events.drop s.events.length = new := by simp [hevents]
  rw [hnew]
  have hreset := resetKeepsInv.standing (by decide) u.inbox
  refine inv_of_closed hreset ⟨rfl, rfl⟩ (storeOk_nvCut (storeOk_foldl ⟨hs.nvCanonical, hs.nvSpace⟩ ?_) ?_ cut)
  · exact fun e he => hrecord e (List.mem_of_mem_take he)
  · exact fun e he => hrecord e (List.mem_of_mem_drop (List.mem_of_mem_head? he))

/-- A pending power loss is no part of the invariant. -/
theorem Inv.withPower {s : State} (h : Inv s) (p : Option PowerCut) : Inv { s with power := p } :=
  ⟨h.launch, h.idleOffset, h.openOffset, h.cursors, h.described, h.looping, h.nvCanonical, h.nvSpace⟩

/-- Settles O49: a transition keeps both parts of the invariant, a pending power loss is no part of it, and one that
strikes leaves the reset values. -/
theorem stepKeepsInv : Obligations.StepKeepsInv := by
  intro s t hs h
  obtain ⟨-, hc⟩ | ⟨p, u, -, hc, ht⟩ := step_cases h
  · have hregs := registersOk_cycle hs hc
    exact ⟨inv_of_registersOk hregs (storeOk_cycle hs hc), registersOk_not_framing hregs⟩
  · have hs' := hs.withPower none
    obtain rfl | rfl := ht
    · exact ⟨inv_afterPowerLoss hs' hc p.after p.cut, fun f hf => by cases hf⟩
    · have hregs := registersOk_cycle hs' hc
      have hu := inv_of_registersOk hregs (storeOk_cycle hs' hc)
      exact ⟨hu.withPower _, registersOk_not_framing hregs⟩

/-! ### Faults from the invariant -/

/-- A data operation whose body completes on a negotiated card does not fault between host operations (R336). -/
theorem whenUsable_ne_fault {s : State} {r : Except Fault State} {f : Fault} (hl : Launched s)
    (hr : s.version ≠ .unset → ∃ t w, r = .ok (returnWord w t) ∧ Underway s t) : whenUsable s (settle r) ≠ .fault f := by
  intro h
  by_cases hv : s.version = .unset
  · obtain ⟨hlaunch, hseq⟩ := hl
    simp [whenUsable, whenLaunched, hlaunch, hseq, hv] at h
  · obtain ⟨t, w, rfl, -⟩ := hr hv
    rw [whenUsable_of_launched hl hv] at h
    cases h

/-- A bare command that does not fault itself faults between host operations only in an open page (log entry 4). -/
theorem whenNoPageOpen_fault {s : State} {o : Outcome} {f : Fault} (hl : Launched s) (ho : o ≠ .fault f)
    (h : whenNoPageOpen s o = .fault f) : f = .commandInOpenPage := by
  obtain ⟨hlaunch, hseq⟩ := hl
  simp only [whenNoPageOpen, whenLaunched, hlaunch, hseq, if_true] at h
  split at h
  · exact absurd h ho
  · injection h with h
    exact h.symm

theorem whenPageArg_next_ne_fault (arg : Word) (s t : State) (f : Fault) :
    whenPageArg arg s (.next t) ≠ .fault f := by
  unfold whenPageArg
  split <;> nofun

/-- Where CID is written once INIT has succeeded, an operation between host operations faults only as a bare command in
an open page (R337, log entry 4). -/
theorem exec_fault {i : Instr} {s : State} {f : Fault} (hl : Launched s)
    (hw : s.version ≠ .unset → s.cidWritten = true) (h : exec i s = .fault f) : f = .commandInOpenPage := by
  cases i
  case init =>
    obtain ⟨hlaunch, hseq⟩ := hl
    simp [exec, execInit, whenLaunched, hlaunch, hseq] at h
  case read => exact absurd h (whenUsable_ne_fault hl fun hv => readBody_completes (hw hv))
  case write v => exact absurd h (whenUsable_ne_fault hl fun hv => writeBody_completes v (hw hv))
  case erase => exact absurd h (whenUsable_ne_fault hl fun hv => eraseBody_completes (hw hv))
  case getStatus => exact absurd h (whenUsable_ne_fault hl fun hv => getStatusBody_completes (hw hv))
  case readBlock | writeBlock => exact whenNoPageOpen_fault hl (whenPageArg_next_ne_fault _ _ _ f) h
  all_goals exact whenNoPageOpen_fault hl (by nofun) h

/-- A request that faults was decoded, and its operation faults. -/
theorem runRequest_fault {r : Request} {s : State} {f : Fault} (h : runRequest r s = .fault f) :
    ∃ i, exec i s = .fault f := by
  unfold runRequest at h
  split at h
  · exact ⟨_, h⟩
  · cases h

/-- A transition from a state of the invariant faults only as `exec_fault` says. -/
theorem cycle_fault {s : State} {f : Fault} (hs : Inv s) (h : cycle s = .fault f) : f = .commandInOpenPage := by
  have hl := hs.launch
  unfold cycle at h
  rw [hl] at h
  dsimp only at h
  split at h
  · next hseq =>
    have hnotLoop : s.seq ≠ .initLoop := by simp [hseq]
    unfold serve at h
    split at h
    · cases h
    · next hc rest _ =>
      obtain ⟨i, he⟩ := runRequest_fault h
      exact exec_fault (s := { s with inbox := rest }) ⟨hl, hseq⟩ (fun hv => (hs.described hnotLoop hv).1) he
  · cases h
  · next g hseq =>
    have hnotLoop : s.seq ≠ .initLoop := by simp [hseq]
    obtain ⟨hm, hv, ho, hopen, -, hflags⟩ := (launchFault_none_iff s).1 hl
    have hl' : launchFault { s with seq := .ready } = none :=
      (launchFault_none_iff { s with seq := .ready }).2 ⟨hm, hv, ho, hopen, nofun, hflags⟩
    obtain ⟨i, he⟩ := runRequest_fault h
    exact exec_fault (s := { s with seq := .ready }) ⟨hl', rfl⟩ (fun hv => (hs.described hnotLoop hv).1) he

/-- Settles O50: a step faults where its transition does, with a power loss pending or not. -/
theorem invariantStatesDoNotFault : Obligations.InvariantStatesDoNotFault := by
  intro s f hs h
  unfold step transition at h
  split at h
  · exact cycle_fault hs h
  · unfold cyclePowered at h
    cases hc : cycle { s with power := none } with
    | next u =>
      rw [hc] at h
      dsimp only at h
      split at h <;> cases h
    | refused r =>
      rw [hc] at h
      cases h
    | fault g =>
      rw [hc] at h
      injection h with h
      exact h ▸ cycle_fault (hs.withPower none) hc

/-! ### WR_CRC_OK -/

theorem CommandRun.wrCrcOk {s t : State} (h : CommandRun s t) : t.flags.wrCrcOk = s.flags.wrCrcOk := by
  cases h with
  | send h =>
    obtain ⟨x, rfl⟩ := h
    rfl
  | cid d h ht =>
    obtain ⟨x, rfl⟩ := h
    rw [ht]
    rfl
  | csd d h ht =>
    obtain ⟨x, rfl⟩ := h
    rw [ht]
    rfl

theorem wrCrcOk_exec {i : Instr} {s t : State} (hcfg : s.cfg.writeCrcFlagRecorded = false)
    (hw : s.flags.wrCrcOk = false) (h : exec i s = .next t) : t.flags.wrCrcOk = false := by
  obtain ⟨-, rfl | ⟨-, hrun⟩ | ⟨-, hrun⟩⟩ := exec_cases h
  · exact (initLeaves_initStart s).wrCrcOk
  · exact (hrun.kept.wrCrcOk hcfg).trans hw
  · exact hrun.wrCrcOk.trans hw

theorem wrCrcOk_cycle {s t : State} (hcfg : s.cfg.writeCrcFlagRecorded = false) (hw : s.flags.wrCrcOk = false)
    (h : cycle s = .next t) : t.flags.wrCrcOk = false := by
  obtain ⟨hl, ⟨-, -, rfl⟩ | ⟨_, rest, i, -, -, -, he⟩ | ⟨hseq, rfl⟩ | ⟨f, i, -, -, he⟩⟩ := cycle_cases h
  · exact hw
  · exact wrCrcOk_exec (s := { s with inbox := rest }) hcfg hw he
  · obtain ⟨-, -, -, -, hloop, -⟩ := (launchFault_none_iff s).1 hl
    exact (initLeaves_of_loopRegisters (hloop hseq)).wrCrcOk
  · exact wrCrcOk_exec (s := { s with seq := .ready }) hcfg hw he

/-- Settles O59: INIT clears the flag (R191), the data operations keep it where it is not recorded (R239), the bare
commands do not write it, and a power loss clears it. -/
theorem writeCrcFlagStaysClear : Obligations.WriteCrcFlagStaysClear := by
  intro s t hcfg hw h
  obtain ⟨-, hc⟩ | ⟨p, u, -, hc, ht⟩ := step_cases h
  · exact wrCrcOk_cycle hcfg hw hc
  · have hu : u.flags.wrCrcOk = false := wrCrcOk_cycle (s := { s with power := none }) hcfg hw hc
    obtain rfl | rfl := ht
    · rfl
    · exact hu

end Sys2Proof.Machine
end

section
/-! The state statements, fifth part: INIT against a version-1 card that answers each command at its first poll (R23, R190,
R194, R202, R203). -/

namespace Sys2Proof.Machine

/-! ### Replies that the run names -/

/-- A poll whose first byte is accepted makes one exchange. -/
theorem pollEnds_one {stop : Byte → Bool} {n : Nat} {f : Nat → Byte} (hn : 1 ≤ n) (h : stop (f 0) = true) :
    PollEnds stop n f 1 :=
  ⟨le_rfl, hn, fun j hj => by omega, .inl h⟩

theorem reply_of_card {s : State} {a rest : List Byte} {b : Byte} (h : s.card = a ++ b :: rest) :
    reply s a.length = b := by
  simp [reply, h]

theorem replies_of_card {s : State} {l rest : List Byte} (h : s.card = l ++ rest) : replies s l.length = l := by
  apply List.ext_getElem (by simp)
  intro n hn _
  rw [replies_length] at hn
  simp [replies, reply, h, List.getElem?_append_left hn, List.getElem?_eq_getElem hn]

/-! ### Commands answered at the first poll -/

/-- `t` is `s` after commands that the card answered at their first polls, the last with `r1`; `rest` are its
next replies. -/
structure Answered (s t : State) (r1 : Byte) (rest : List Byte) : Prop where
  bus : BusOnly s t
  lastR1 : t.lastR1 = r1
  card : t.card = rest
  flags : t.flags = { s.flags with cmdTimeout := false }

theorem Answered.trans {s t u : State} {r r' : Byte} {l l' : List Byte} (h : Answered s t r l)
    (h' : Answered t u r' l') : Answered s u r' l' :=
  ⟨h.bus.trans h'.bus, h'.lastR1, h'.card, by rw [h'.flags, h.flags]⟩

/-- A SEND whose R1 is the first byte polled, and whose tail follows (R150 to R153). -/
theorem answered_send {shape : Shape} (hshape : shape ≠ .r1b) (idx : BitVec 6) (arg : Word) (keep : Bool) {s : State}
    {r1 : Byte} {tail rest : List Byte} (hr1 : r1 ≠ idleByte) (htail : tail.length = tailLength shape)
    (hcard : s.card = frameReplies (r1 :: tail) ++ rest) : Answered s (send idx arg shape keep s) r1 rest := by
  have h6 : reply s 6 = r1 := reply_of_card (a := List.replicate 6 idleByte) (rest := tail ++ rest) hcard
  obtain ⟨k, hk, he⟩ := send_spec idx arg shape keep s hshape
  obtain rfl : k = 1 := PollEnds_unique hk (pollEnds_one (by decide) (by simpa [h6, acceptByte] using hr1))
  have hcount : tailCount s shape r1 = tail.length := by simp [tailCount, hr1, htail]
  rw [he]
  refine ⟨busOnly_afterSend idx arg shape keep 1 s, ?_, ?_, ?_⟩
  · simp only [afterSend, h6]
  · simp only [afterSend, h6, hcount, exchanged_card, select_card, hcard]
    exact List.drop_left' (by simp [frameReplies]; omega)
  · simp [afterSend, h6, hr1]

/-- A block read whose start token is the first byte after R1 (R230, R231). -/
theorem readBlockOpen_answered (idx : BitVec 6) (arg : Word) {s : State} {r1 : Byte} {rest : List Byte}
    (hr1 : r1 ≠ idleByte) (hcard : s.card = frameReplies [r1] ++ startToken :: rest) :
    BusOnly s (readBlockOpen idx arg s) ∧ (readBlockOpen idx arg s).lastR1 = r1 ∧
      (readBlockOpen idx arg s).card = rest ∧ (readBlockOpen idx arg s).crc16 = 0 ∧
      (readBlockOpen idx arg s).flags = { s.flags with cmdTimeout := false, tokenTimeout := false } := by
  obtain ⟨hbus, hlast, htoken, hflags⟩ := answered_send (shape := .r1) (by decide) idx arg true hr1 rfl hcard
  unfold readBlockOpen
  generalize send idx arg .r1 true s = t at hbus hlast htoken hflags
  obtain ⟨j, hj, he⟩ := tokenWait_eq t
  have h0 : reply t 0 = startToken := reply_of_card (a := []) htoken
  obtain rfl : j = 1 := PollEnds_unique hj (pollEnds_one (by decide) (by simp [h0, isToken]))
  dsimp only
  rw [he]
  refine ⟨hbus.trans (.of_eq ?_), hlast, ?_, rfl, ?_⟩
  · simp only [State.withBus, State.bus, exchanged]
  · simp [htoken]
  · simp [hflags, h0]

/-- A block's close whose card is not busy at the first poll (R233, R234). -/
theorem readBlockClose_answered {s : State} {hi lo filler last : Byte} {rest : List Byte} (hlast : last ≠ 0)
    (hcard : s.card = [hi, lo, filler, last] ++ rest) :
    BusOnly s (readBlockClose s) ∧ (readBlockClose s).lastR1 = s.lastR1 ∧ (readBlockClose s).card = rest ∧
      (readBlockClose s).sel = false ∧
      (readBlockClose s).flags =
        { s.flags with rdCrcOk := pair16 hi lo == s.crc16, busyTimeout := false } := by
  have h0 : reply s 0 = hi := reply_of_card (a := []) hcard
  have h1 : reply s 1 = lo := reply_of_card (a := [hi]) hcard
  have h3 : reply s 3 = last := reply_of_card (a := [hi, lo, filler]) hcard
  obtain ⟨m, hm, he⟩ := readBlockClose_spec s
  obtain rfl : m = 1 := PollEnds_unique hm (pollEnds_one (by decide) (by simpa [h3, readyByte] using hlast))
  rw [he]
  refine ⟨busOnly_afterReadClose 1 s, ?_, ?_, ?_, ?_⟩
  · simp only [afterReadClose, exchanged_lastR1]
  · simp [afterReadClose, hcard]
  · simp only [afterReadClose]
  · simpa [afterReadClose, h0, h1, h3] using hlast

/-- `t` is `s` after a descriptor read that the card answered at once, with the descriptor `d` and the CRC-16 bytes `hi`
and `lo`. -/
structure DescriptorRead (s t : State) (d : Descriptor) (hi lo : Byte) (rest : List Byte) : Prop where
  bus : BusOnly s t
  lastR1 : t.lastR1 = 0x00
  card : t.card = rest
  sel : t.sel = false
  flags : t.flags = { s.flags with
    cmdTimeout := false, tokenTimeout := false, busyTimeout := false, rdCrcOk := pair16 hi lo == crc16 d.toList }

/-- Sixteen bytes are the descriptor whose bytes they are. -/
theorem descriptorOf_toList (d : Descriptor) : descriptorOf d.toList = d := by
  ext i hi
  interval_cases i <;> simp [descriptorOf]

/-- READ_DESCRIPTOR's transfer against a card that answers at once (R240). -/
theorem readDescriptorBytes_answered (idx : BitVec 6) {s : State} {d : Descriptor} {hi lo : Byte} {rest : List Byte}
    (hcard : s.card = descriptorReplies d hi lo ++ rest) :
    (readDescriptorBytes idx s).1 = d.toList ∧ DescriptorRead s (readDescriptorBytes idx s).2 d hi lo rest := by
  obtain ⟨hbus, hlast, hpayload, hcrc, hflags⟩ :=
    readBlockOpen_answered idx 0 (s := s) (r1 := 0x00) (rest := d.toList ++ ([hi, lo, idleByte, idleByte] ++ rest))
      (by decide) (by simp [hcard, descriptorReplies, frameReplies])
  unfold readDescriptorBytes
  generalize readBlockOpen idx 0 s = o at hbus hlast hpayload hcrc hflags
  have hbytes : replies o 16 = d.toList := by simpa using replies_of_card hpayload
  have hcard' : (afterReceive 16 o).card = [hi, lo, idleByte, idleByte] ++ rest := by
    have h : (afterReceive 16 o).card = o.card.drop 16 := by
      simp only [afterReceive, exchanged_card, List.length_replicate]
    rw [h, hpayload]
    exact List.drop_left' (by simp)
  have hcrc' : (afterReceive 16 o).crc16 = crc16 d.toList := by simp only [afterReceive, hbytes, hcrc, crc16]
  have hlast' : (afterReceive 16 o).lastR1 = 0x00 := by simp only [afterReceive, exchanged_lastR1, hlast]
  have hflags' : (afterReceive 16 o).flags = o.flags := by simp only [afterReceive, exchanged_flags]
  obtain ⟨cbus, clast, ccard, csel, cflags⟩ := readBlockClose_answered (by decide) hcard'
  simp only [show descriptorBytes = 16 from rfl, rxPayloads_eq]
  refine ⟨hbytes, (hbus.trans (busOnly_afterReceive 16 o)).trans cbus, clast.trans hlast', ccard, csel, ?_⟩
  rw [cflags, hcrc', hflags', hflags]

theorem readCidDescriptor_answered {s : State} {d : Descriptor} {hi lo : Byte} {rest : List Byte}
    (hcard : s.card = descriptorReplies d hi lo ++ rest) :
    ∃ u, DescriptorRead s u d hi lo rest ∧ readCidDescriptor s = { u with cid := d, cidWritten := true } := by
  obtain ⟨hbytes, hread⟩ := readDescriptorBytes_answered idxReadCid hcard
  refine ⟨_, hread, ?_⟩
  unfold readCidDescriptor
  dsimp only
  rw [hbytes, descriptorOf_toList]

theorem readCsdDescriptor_answered {s : State} {d : Descriptor} {hi lo : Byte} {rest : List Byte}
    (hcard : s.card = descriptorReplies d hi lo ++ rest) :
    ∃ u, DescriptorRead s u d hi lo rest ∧ readCsdDescriptor s = { u with csd := d, csdWritten := true } := by
  obtain ⟨hbytes, hread⟩ := readDescriptorBytes_answered idxReadCsd hcard
  refine ⟨_, hread, ?_⟩
  unfold readCsdDescriptor
  dsimp only
  rw [hbytes, descriptorOf_toList]

/-! ### The steps of INIT against such a card -/

/-- Steps 1 and 2's command (R190 to R193): GO_IDLE's R1 has its idle flag. -/
theorem initStart_answered {s : State} {rest : List Byte}
    (hcard : s.card = List.replicate 10 idleByte ++ (frameReplies [0x01] ++ rest)) :
    ∃ u, Answered (initIdled s) u 0x01 rest ∧ initStart s = initClassify u := by
  have hidled : initIdleClocks (initReset s) = initIdled s := by
    unfold initIdleClocks
    rw [sendBytes_eq]
    simp [initIdled, initReset, setClock, release, emit, initBytes]
  have hc : (initIdled s).card = frameReplies [0x01] ++ rest := by
    simp [initIdled, hcard]
  have ha := answered_send (shape := .r1) (by decide) idxGoIdle 0 false (by decide) rfl hc
  refine ⟨_, ha, ?_⟩
  unfold initStart
  rw [hidled]
  simp only [ha.lastR1]
  rfl

/-- Steps 2 to 4 on a version-1 card (R194, R196): IF_COND is an illegal command, and the echo is not read. -/
theorem initClassify_version1 {s : State} {tail rest : List Byte} (htail : tail.length = 4)
    (hcard : s.card = frameReplies (0x05 :: tail) ++ rest) :
    ∃ u, Answered s u 0x05 rest ∧
      initClassify s = initLoopRound (initFastClock { u with version := .v1, initArg := 0 }) := by
  have ha := answered_send (shape := .r7) (by decide) idxIfCond ifCondArg false (by decide) htail hcard
  refine ⟨_, ha, ?_⟩
  have hclass : classifyR1 0x05 = some .v1 := by decide
  unfold initClassify
  simp only [ha.lastR1, hclass]
  simp [initEcho]

/-- Step 5 on a card that is ready in its first round (R197). -/
theorem initLoopRound_answered {s : State} {r1 : Byte} {rest : List Byte} (hr1 : r1 ≠ idleByte)
    (hcard : s.card = frameReplies [r1] ++ (frameReplies [0x00] ++ rest)) :
    ∃ u, Answered s u 0x00 rest ∧ initLoopRound s = initOcr u := by
  have ha := answered_send (shape := .r1) (by decide) idxAppPrefix 0 false hr1 rfl hcard
  unfold initLoopRound
  generalize send idxAppPrefix 0 .r1 false s = t at ha
  have hb := answered_send (shape := .r1) (by decide) idxInitOp t.initArg false (by decide) rfl ha.card
  refine ⟨_, ha.trans hb, ?_⟩
  simp only [hb.lastR1, if_true]

/-- Step 7 (R200). -/
theorem initBlocklen_answered {s : State} {rest : List Byte} (hcard : s.card = frameReplies [0x00] ++ rest) :
    ∃ u, Answered s u 0x00 rest ∧ initBlocklen s = initDescriptors u := by
  have ha := answered_send (shape := .r1) (by decide) idxSetBlocklen blocklenArg false (by decide) rfl hcard
  refine ⟨_, ha, ?_⟩
  unfold initBlocklen
  simp only [ha.lastR1, if_true]

/-- Step 8 (R201): both descriptors are read, and the flags are those of the second. -/
theorem initDescriptors_answered {s : State} {cid csd : Descriptor} {hi lo hi' lo' : Byte} {rest : List Byte}
    (hcard : s.card = descriptorReplies cid hi lo ++ (descriptorReplies csd hi' lo' ++ rest)) :
    ∃ u, DescriptorRead s u csd hi' lo' rest ∧
      initDescriptors s =
        initRecover { u with cid := cid, cidWritten := true, csd := csd, csdWritten := true } := by
  obtain ⟨t, ht, hcid⟩ := readCidDescriptor_answered hcard
  obtain ⟨⟨x, rfl⟩, hlast, htcard, -, htflags⟩ := ht
  obtain ⟨v, hv, hcsd⟩ := readCsdDescriptor_answered
    (s := { s.withBus x with cid := cid, cidWritten := true }) htcard
  obtain ⟨⟨y, rfl⟩, hvlast, hvcard, hvsel, hvflags⟩ := hv
  have hokCid : descriptorOk (readCidDescriptor s) = true := by
    rw [hcid]
    simp only [descriptorOk, htflags, Bool.false_and, Bool.not_false]
  have hokCsd : descriptorOk (readCsdDescriptor (readCidDescriptor s)) = true := by
    rw [hcid, hcsd]
    simp only [descriptorOk, hvflags, Bool.false_and, Bool.not_false]
  refine ⟨s.withBus y, ⟨⟨y, rfl⟩, hvlast, hvcard, hvsel, ?_⟩, ?_⟩
  · refine hvflags.trans ?_
    simp only [htflags]
  · unfold initDescriptors
    simp only [hokCid, hokCsd, if_true]
    rw [hcid, hcsd]
    rfl

/-! ### INIT on a version-1 card -/

theorem clamp_of_no_pages (c : Word) : clamp 0 c = 0 := by
  unfold clamp
  exact if_neg (Nat.not_lt_zero _)

/-- Two adjacent bytes of a value are its 16 bits (R8). -/
theorem pair16_extract (v : BitVec 32) : pair16 (v.extractLsb' 8 8) (v.extractLsb' 0 8) = v.extractLsb' 0 16 := by
  unfold pair16
  exact BitVec.extractLsb'_append_extractLsb'_eq_extractLsb' rfl

/-- The whole of INIT on a version-1 card, up to RECOVER (R190, R194, R199, R202): `u` is what the commands after the
clock switch leave of `fastClocked`'s state. -/
theorem initStart_version1 {s : State} {echo : Word} {cid csd : Descriptor} {crcs : BitVec 32} {rest : List Byte}
    (hcard : s.card = version1Replies echo cid csd crcs ++ rest) :
    ∃ u v, BusOnly (initIdled s) u ∧ BusOnly (initFastClock { u with version := .v1, initArg := 0 }) v ∧
      v.card = rest ∧ v.sel = false ∧
      v.flags = { Flags.zero with rdCrcOk := crcs.extractLsb' 0 16 == crc16 csd.toList } ∧
      initStart s = initRecover { v with cid := cid, cidWritten := true, csd := csd, csdWritten := true } := by
  simp only [version1Replies, List.append_assoc] at hcard
  obtain ⟨t₁, h₁, e₁⟩ := initStart_answered hcard
  obtain ⟨t₂, h₂, e₂⟩ := initClassify_version1 rfl h₁.card
  have hidle := h₁.trans h₂
  obtain ⟨t₃, h₃, e₃⟩ := initLoopRound_answered
    (s := initFastClock { t₂ with version := .v1, initArg := 0 }) (by decide) h₂.card
  have hocr : initOcr t₃ = initBlocklen t₃ := by
    have hv : t₃.version = .v1 := h₃.bus.version
    simp [initOcr, hv]
  obtain ⟨t₄, h₄, e₄⟩ := initBlocklen_answered h₃.card
  have hready := h₃.trans h₄
  obtain ⟨v, hv, e₅⟩ := initDescriptors_answered h₄.card
  refine ⟨t₂, v, hidle.bus, hready.bus.trans hv.bus, hv.card, hv.sel, ?_, ?_⟩
  · have hflags : (initFastClock { t₂ with version := .v1, initArg := 0 }).flags = t₂.flags := rfl
    rw [hv.flags, hready.flags, hflags, hidle.flags, pair16_extract]
    rfl
  · rw [e₁, e₂, e₃, hocr, e₄, e₅]

/-- Steps 9 and 10 on a version-1 card (R202, R203): with page count 0 both cursors are 0 whatever the record holds. -/
theorem initRecover_version1 {s : State} {f : Flags} (hf : s.flags = f) (hv : s.version = .v1) (hrd : s.rdCursor = 0)
    (hwr : s.wrCursor = 0) :
    ∃ c m es, initRecover s = returnWord 0x0001 { s with
      totalPages := 0, rdCursor := 0, wrCursor := 0
      flags := { f with
        idMismatch := !tagMatches s
        recordCorrupt := tagMatches s &&
          !((resolveRead (recordOf s.cfg s.nv)).2 && (resolveWrite (recordOf s.cfg s.nv)).2) }
      crc7 := c, nv := m, events := es } := by
  subst hf
  have hcount : initPageCount s = { s with totalPages := 0, rdCursor := 0, wrCursor := 0 } := by
    simp [initPageCount, hv, v1TotalPages, hrd, hwr]
  have hrecover := recover_eq { s with totalPages := 0, rdCursor := 0, wrCursor := 0 }
  simp only [clamp_of_no_pages, ite_self] at hrecover
  unfold initRecover
  rw [hcount, hrecover]
  exact ⟨_, _, _, rfl⟩

/-- Settles O43: the registers that INIT's steps leave, and RECOVER's with page count 0 (R202, R307). -/
theorem initSucceedsOnVersion1 : Obligations.InitSucceedsOnVersion1 := by
  intro s echo cid csd crcs rest hl hcard
  obtain ⟨hlaunch, hseq⟩ := hl
  obtain ⟨u, v, ⟨x, rfl⟩, ⟨y, rfl⟩, hrest, hsel, hflags, hstart⟩ := initStart_version1 hcard
  have hexec : exec .init s = .next (initStart s) := by
    simp only [exec, execInit, whenLaunched, hlaunch, hseq, if_true]
  obtain ⟨c, m, es, hend⟩ := initRecover_version1
    (s := { (initFastClock { (initIdled s).withBus x with version := .v1, initArg := 0 }).withBus y with
      cid := cid, cidWritten := true, csd := csd, csdWritten := true }) hflags rfl rfl rfl
  rw [hexec, hstart, hend]
  refine ⟨_, rfl, rfl, rfl, rfl, rfl, rfl, rfl, rfl, rfl, rfl, rfl, hsel, rfl, rfl, rfl, hrest, rfl⟩

end Sys2Proof.Machine
end

section
/-! The memory statements (spec 20_memory.md), first part: the CRC-16 residue (R65, R134), the argument of a page
(R62, R68) and the bare commands answered by R1 alone (R68, R74). -/

namespace Sys2Proof.Machine

/-! ### CRC-16 -/

/-- A data bit equal to the running value's top bit only shifts it, whatever the generator polynomial (R133). -/
theorem crc16Bit_top (c : BitVec 16) : crc16Bit c (c.getLsbD 15) = c <<< 1 := by
  simp [crc16Bit]

/-- The running value's own top byte only shifts it: each bit consumed meets itself at the top (R133). -/
theorem crc16Step_topByte (c : BitVec 16) : crc16Step (c.extractLsb' 8 8) c = c <<< 8 := by
  have hbit (n : Nat) (hn : n < 8) : crc16Bit (c <<< n) ((c.extractLsb' 8 8).getLsbD (7 - n)) = c <<< (n + 1) := by
    have htop : (c.extractLsb' 8 8).getLsbD (7 - n) = (c <<< n).getLsbD 15 := by
      have hsub : 8 + (7 - n) = 15 - n := by omega
      rw [BitVec.getLsbD_extractLsb', BitVec.getLsbD_shiftLeft, hsub]
      simp [show 7 - n < 8 by omega, show ¬ 15 < n by omega]
    rw [htop, crc16Bit_top, BitVec.shiftLeft_add]
  have h0 := hbit 0 (by decide)
  simp only [BitVec.shiftLeft_zero] at h0
  simp only [crc16Step, bitOrder, List.foldl]
  rw [h0, hbit 1 (by decide), hbit 2 (by decide), hbit 3 (by decide), hbit 4 (by decide), hbit 5 (by decide),
    hbit 6 (by decide), hbit 7 (by decide)]

theorem crc16_append (bs cs : List Byte) : crc16 (bs ++ cs) = crc16From (crc16 bs) cs := by
  simp only [crc16, crc16From, List.foldl_append]

/-- A running value continued over its own two bytes, high byte first, is shifted out (R65, R134). -/
theorem crc16From_ownBytes (c : BitVec 16) : crc16From c [c.extractLsb' 8 8, c.extractLsb' 0 8] = 0 := by
  have hlow : c.extractLsb' 0 8 = (c <<< 8).extractLsb' 8 8 := by
    ext i hi
    have hsub : 8 + i - 8 = 0 + i := by omega
    rw [BitVec.getElem_extractLsb', BitVec.getElem_extractLsb', BitVec.getLsbD_shiftLeft, hsub]
    simp [show 8 + i < 16 by omega]
  calc crc16From c [c.extractLsb' 8 8, c.extractLsb' 0 8]
      = crc16Step (c.extractLsb' 0 8) (crc16Step (c.extractLsb' 8 8) c) := rfl
    _ = (c <<< 8) <<< 8 := by rw [crc16Step_topByte, hlow, crc16Step_topByte]
    _ = 0 := by rw [← BitVec.shiftLeft_add]; exact BitVec.shiftLeft_eq_zero (le_refl 16)

/-- Settles O7: the two bytes appended are the running value's own, which shift it out. -/
theorem crc16ResidueIsZero : Obligations.Crc16ResidueIsZero :=
  ⟨fun bs => by rw [crc16_append, crc16From_ownBytes], by decide +kernel⟩

/-! ### The argument of a page -/

theorem toNat_pageArg_sc (p : Word) : (pageArg .sc p).toNat = p.toNat * 512 % 2 ^ 32 := by
  rw [pageArg, BitVec.toNat_mul]
  rfl

/-- Settles O31: the standard card's argument is `512 p` modulo `2 ^ 32`, so `p` counts modulo `2 ^ 23`. -/
theorem pageArgument : Obligations.PageArgument := by
  intro p q
  have hp := toNat_pageArg_sc p
  have hq := toNat_pageArg_sc q
  refine ⟨rfl, hp, by omega, ?_⟩
  rw [← BitVec.toNat_inj]
  omega

/-! ### The bare commands -/

/-- A bare command stops where a page is open (R74). -/
theorem whenNoPageOpen_of_open {s : State} (h : Launched s) (hm : s.mode ≠ .idle) (o : Outcome) :
    whenNoPageOpen s o = .fault .commandInOpenPage := by
  obtain ⟨hlaunch, hseq⟩ := h
  simp only [whenNoPageOpen, whenLaunched, hlaunch, hseq, hm, if_true, if_false]

/-- A bare command runs where no page is open. -/
theorem whenNoPageOpen_of_ready {s : State} (h : CommandReady s) (o : Outcome) : whenNoPageOpen s o = o := by
  obtain ⟨⟨hlaunch, hseq⟩, hm⟩ := h
  simp only [whenNoPageOpen, whenLaunched, hlaunch, hseq, hm, if_true]

/-- Settles O12: host words are no frames, and every other operation passes the guard `whenNoPageOpen` first. -/
theorem commandInOpenPageStops : Obligations.CommandInOpenPageStops := by
  intro i f s hi hs hm
  cases i
  case init | read | write | erase | getStatus => cases hi
  all_goals exact whenNoPageOpen_of_open hs hm _

/-- The Ncr wait of the next command ends (R152). -/
theorem exists_ncrEnds (s : State) : ∃ k, NcrEnds k s := by
  obtain ⟨k, hk, -⟩ := send_spec 0 0 .r1 true s (by decide)
  exact ⟨k, hk⟩

/-- SEND leaves `afterSend` of the poll count at which the Ncr wait ends, whatever the command: a poll ends at one place
only (R152). -/
theorem send_of_ncrEnds {k : Nat} {s : State} (h : NcrEnds k s) (idx : BitVec 6) (arg : Word) (shape : Shape)
    (keep : Bool) (hshape : shape ≠ .r1b) : send idx arg shape keep s = afterSend idx arg shape keep k s := by
  obtain ⟨j, hj, he⟩ := send_spec idx arg shape keep s hshape
  rw [he, PollEnds_unique hj h]

/-- A bare command that is one SEND completes with its effect. -/
theorem whenNoPageOpen_send {k : Nat} {s : State} (hs : CommandReady s) (hk : NcrEnds k s) (idx : BitVec 6) (arg : Word)
    {shape : Shape} (hshape : shape ≠ .r1b) (keep : Bool) :
    whenNoPageOpen s (.next (send idx arg shape keep s)) = .next (afterSend idx arg shape keep k s) := by
  rw [whenNoPageOpen_of_ready hs, send_of_ncrEnds hk _ _ _ _ hshape]

theorem whenPageArg_pageArg (p : Word) (s : State) (o : Outcome) : whenPageArg (pageArg s.capacity p) s o = o :=
  if_pos (isPageArg_iff.2 ⟨p, rfl⟩)

theorem whenPageArg_of_no_page {arg : Word} {s : State} (h : ∀ p, arg ≠ pageArg s.capacity p) (o : Outcome) :
    whenPageArg arg s o = .refused .misalignedArgument :=
  if_neg fun hp => by
    obtain ⟨p, hp⟩ := isPageArg_iff.1 hp
    exact h p hp

/-- Settles O8: the six commands are one SEND each, and their Ncr waits end at the same poll. -/
theorem r1Commands : Obligations.R1Commands := by
  intro s arg p hs
  obtain ⟨k, hk⟩ := exists_ncrEnds s
  have hsend (idx : BitVec 6) (a : Word) (keep : Bool) :=
    whenNoPageOpen_send hs hk idx a (shape := .r1) (by decide) keep
  have hpage (idx : BitVec 6) :
      whenNoPageOpen s (whenPageArg (pageArg s.capacity p) s (.next (send idx (pageArg s.capacity p) .r1 true s))) =
        .next (afterSend idx (pageArg s.capacity p) .r1 true k s) := by
    rw [whenPageArg_pageArg, hsend]
  refine ⟨⟨k, hk, hsend _ _ _, hsend _ _ _, hsend _ _ _, hsend _ _ _, hpage _, hpage _⟩, fun hno => ?_⟩
  have hrefused (o : Outcome) : whenNoPageOpen s (whenPageArg arg s o) = .refused .misalignedArgument := by
    rw [whenNoPageOpen_of_ready hs, whenPageArg_of_no_page hno]
  exact ⟨hrefused _, hrefused _⟩

end Sys2Proof.Machine
end

section
/-! The memory statements, second part: the NV bytes outside the record (R64) and a power loss within
a step (R70, R345, R360). -/

namespace Sys2Proof.Machine

/-! ### Outside the record -/

theorem read_nvApply_outside {p : Params} {a : Nat} (ha : ¬ InRecord p a) {e : Event} (he : EventInRecord p e)
    (m : Memory) : Memory.read (nvApply m e) a = Memory.read m a := by
  cases e
  case nvWrite b v => exact Memory.read_write_other m v fun h => ha (h ▸ he)
  all_goals rfl

theorem read_foldl_outside {p : Params} {a : Nat} (ha : ¬ InRecord p a) {es : List Event}
    (he : ∀ e ∈ es, EventInRecord p e) (m : Memory) : Memory.read (es.foldl nvApply m) a = Memory.read m a := by
  induction es generalizing m with
  | nil => rfl
  | cons e es ih =>
    rw [List.foldl_cons, ih fun e' h' => he e' (List.mem_cons_of_mem _ h'),
      read_nvApply_outside ha (he e List.mem_cons_self)]

theorem read_nvCut_outside {p : Params} {a : Nat} (ha : ¬ InRecord p a) {next : Option Event}
    (hnext : ∀ e, next = some e → EventInRecord p e) (m : Memory) (cut : Byte) :
    Memory.read (nvCut m next cut) a = Memory.read m a := by
  unfold nvCut
  split
  · next b v => exact Memory.read_write_other m cut fun h => ha (h ▸ hnext _ rfl)
  · rfl

/-- A transition's events account for its NV store, and lie in the record (R10, R64). -/
theorem cycle_trace {s t : State} (h : cycle s = .next t) :
    ∃ new, t.events = s.events ++ new ∧ t.nv = new.foldl nvApply s.nv ∧ ∀ e ∈ new, EventInRecord s.cfg e := by
  obtain ⟨_, new, hevents, hnv, -, -, hrecord, -⟩ := ran_cycle h
  exact ⟨new, hevents, hnv, hrecord⟩

theorem read_cycle_outside {s t : State} {a : Nat} (ha : ¬ InRecord s.cfg a) (h : cycle s = .next t) :
    Memory.read t.nv a = Memory.read s.nv a := by
  obtain ⟨new, -, hnv, hrecord⟩ := cycle_trace h
  rw [hnv, read_foldl_outside ha hrecord]

/-- Settles O58: the events of a step, its cut write among them, lie in the record. -/
theorem nvOutsideTheRecordIsUntouched : Obligations.NvOutsideTheRecordIsUntouched := by
  intro s t a h ha
  obtain ⟨-, hc⟩ | ⟨p, u, -, hc, rfl | rfl⟩ := step_cases h
  · exact read_cycle_outside ha hc
  · obtain ⟨new, hevents, -, hrecord⟩ := cycle_trace hc
    have hnew : u.events.drop s.events.length = new := by simp [hevents]
    rw [hnew]
    refine (read_nvCut_outside ha (fun e he => ?_) _ _).trans
      (read_foldl_outside ha (fun e he => hrecord e (List.mem_of_mem_take he)) _)
    exact hrecord e (List.mem_of_mem_drop (List.mem_of_mem_head? he))
  · exact read_cycle_outside (s := { s with power := none }) (t := u) ha hc

/-! ### A power loss within a step -/

/-- A step in which a power loss strikes ends as the transition without it, cut after `p.after` events (R345). -/
theorem step_of_loss {s t : State} {p : PowerCut} (hp : s.power = some p) (h : cycle { s with power := none } = .next t)
    (hin : p.after < (t.events.drop s.events.length).length) :
    step s = .next (afterPowerLoss { s with power := none } t.inbox ((t.events.drop s.events.length).take p.after)
      ((t.events.drop s.events.length).drop p.after).head? p.cut) := by
  simp only [step, transition, hp, cyclePowered, h, hin, true_or, if_true]

theorem wf_foldl_nvApply {m : Memory} (h : Memory.wf m = true) (es : List Event) :
    Memory.wf (es.foldl nvApply m) = true := by
  induction es generalizing m with
  | nil => exact h
  | cons e es ih =>
    refine ih ?_
    cases e
    case nvWrite a v => exact Memory.wf_write h a v
    all_goals exact h

theorem nvCut_of_not_write {next : Option Event} (h : ∀ a v, next ≠ some (.nvWrite a v)) (m : Memory) (cut : Byte) :
    nvCut m next cut = m := by
  unfold nvCut
  split
  · exact absurd rfl (h _ _)
  · rfl

/-- Settles O57: `afterPowerLoss` of the transition's events, of which the next one is the write that may be cut. -/
theorem powerLossResets : Obligations.PowerLossResets := by
  intro s t p hp hstep hwf hin
  rw [step_of_power_none rfl] at hstep
  obtain ⟨new, hevents, -⟩ := cycle_trace hstep
  have hnew : t.events.drop s.events.length = new := by simp [hevents]
  have hnext : (new.drop p.after).head? = t.events[s.events.length + p.after]? := by
    rw [List.head?_drop, ← hnew, List.getElem?_drop]
  have hdone := wf_foldl_nvApply hwf (new.take p.after)
  refine ⟨_, step_of_loss hp hstep (by simpa using hin), rfl, ?_, ?_, ?_⟩
  · show s.events ++ (t.events.drop s.events.length).take p.after = _
    rw [hnew, hevents, List.take_length_add_append]
  · intro a v hwrite
    have hnv : nvCut ((new.take p.after).foldl nvApply s.nv) (new.drop p.after).head? p.cut =
        Memory.write ((new.take p.after).foldl nvApply s.nv) a p.cut := by
      rw [hnext, hwrite]
      rfl
    simp only [afterPowerLoss, hnew, hnv]
    exact ⟨Memory.read_write_same hdone a p.cut, fun b hb => Memory.read_write_other _ p.cut hb⟩
  · intro hwrite
    rw [← hnext, ← hnew] at hwrite
    exact nvCut_of_not_write hwrite _ p.cut

end Sys2Proof.Machine
end

section
/-! The memory statements, third part: a persist cut by a power loss (R70, R310). -/

namespace Sys2Proof.Machine

/-! ### The record found after a cut persist, byte by byte -/

/-- The place of record byte `i` in PERSIST_ORDER (R309). -/
def writePlace (i : Nat) : Nat := persistOrder.idxOf i

/-- PERSIST_ORDER names every record byte (R309). -/
theorem mem_persistOrder {i : Nat} (hi : i < recordBytes) : i ∈ persistOrder := by
  have h : ∀ j : Fin recordBytes, j.val ∈ persistOrder := by decide
  exact h ⟨i, hi⟩

theorem mem_take_persistOrder {i m : Nat} (hi : i < recordBytes) : i ∈ persistOrder.take m ↔ writePlace i < m :=
  List.mem_take_iff_idxOf_lt (mem_persistOrder hi)

theorem getElem?_persistOrder {i m : Nat} (hi : i < recordBytes) : persistOrder[m]? = some i ↔ writePlace i = m := by
  have hnodup : persistOrder.Nodup := by decide
  constructor
  · intro h
    obtain ⟨hm, rfl⟩ := List.getElem?_eq_some_iff.1 h
    exact hnodup.idxOf_getElem m hm
  · rintro rfl
    exact List.getElem?_idxOf (mem_persistOrder hi)

/-- The record when the write of byte number `m` of a persist was cut: `img` is what it writes, `old` was there before
(R70, R310). -/
def cutRecord (img old : List Byte) (m : Nat) (cut : Byte) : List Byte :=
  (List.range recordBytes).map fun i =>
    if writePlace i < m then img.getD i 0 else if writePlace i = m then cut else old.getD i 0

theorem cutRecord_getD {i : Nat} (img old : List Byte) (m : Nat) (cut : Byte) (hi : i < recordBytes) :
    (cutRecord img old m cut).getD i 0 =
      if writePlace i < m then img.getD i 0 else if writePlace i = m then cut else old.getD i 0 := by
  simp [cutRecord, hi]

theorem recordOf_getD {i : Nat} (p : Params) (m : Memory) (hi : i < recordBytes) :
    (recordOf p m).getD i 0 = Memory.read m (nvAddr p i) := by
  simp [recordOf, hi]

/-- Folding the events of an image's writes over the NV store writes the image. -/
theorem foldl_imageEvents (p : Params) (order : List Nat) (img : List Byte) (m : Memory) :
    (imageEvents p order img).foldl nvApply m = imageStore p order img m :=
  List.foldl_map

/-- The first `n` writes of a persist store the image's bytes at the first `n` places of PERSIST_ORDER. -/
theorem read_persistTaken {p : Params} {m : Memory} (hm : Memory.wf m = true) (img : List Byte) (n : Nat) {i : Nat}
    (hi : i < recordBytes) :
    Memory.read (imageStore p (persistOrder.take n) img m) (nvAddr p i) =
      if writePlace i < n then img.getD i 0 else Memory.read m (nvAddr p i) := by
  have hsmall : ∀ j ∈ persistOrder, j < 32 := by decide
  split
  · next h =>
    exact read_imageStore_same hm ((mem_take_persistOrder hi).2 h) fun j hj => hsmall j (List.mem_of_mem_take hj)
  · next h =>
    refine read_imageStore_other fun j hj heq => h ((mem_take_persistOrder hi).1 ?_)
    exact nvAddr_inj (hsmall i (mem_persistOrder hi)) (hsmall j (List.mem_of_mem_take hj)) heq ▸ hj

/-- A power loss before the write number `n` of a persist leaves the byte at that place with the cut value. -/
theorem read_persistCut {p : Params} {m : Memory} (hm : Memory.wf m = true) (img : List Byte) (n : Nat) (cut : Byte)
    {i : Nat} (hi : i < recordBytes) :
    Memory.read (nvCut m ((imageEvents p persistOrder img).drop n).head? cut) (nvAddr p i) =
      if writePlace i = n then cut else Memory.read m (nvAddr p i) := by
  have hnext : ((imageEvents p persistOrder img).drop n).head? =
      persistOrder[n]?.map fun j => Event.nvWrite (nvAddr p j) (img.getD j 0) := by
    rw [List.head?_drop]
    exact List.getElem?_map
  rw [hnext, if_congr (getElem?_persistOrder hi).symm rfl rfl]
  cases hj : persistOrder[n]? with
  | none => rfl
  | some j =>
    have hj32 : j < 32 := (by decide : ∀ j ∈ persistOrder, j < 32) j (List.mem_of_getElem? hj)
    simp only [Option.map_some, nvCut, Option.some.injEq]
    split
    · next h => rw [h, Memory.read_write_same hm]
    · next h =>
      refine Memory.read_write_other m cut fun heq => h ?_
      exact (nvAddr_inj (Nat.lt_of_lt_of_le hi (by decide)) hj32 heq).symm

/-- The record found after a cut persist (R70, R310). -/
theorem recordOf_cutPersist {p : Params} {m : Memory} (hm : Memory.wf m = true) (img : List Byte) (n : Nat)
    (cut : Byte) :
    recordOf p (nvCut (((imageEvents p persistOrder img).take n).foldl nvApply m)
      ((imageEvents p persistOrder img).drop n).head? cut) = cutRecord img (recordOf p m) n cut := by
  have htake : (imageEvents p persistOrder img).take n = imageEvents p (persistOrder.take n) img := List.map_take.symm
  apply List.map_congr_left
  intro i hi
  rw [List.mem_range] at hi
  rw [recordOf_getD p m hi, htake, foldl_imageEvents, read_persistCut (wf_imageStore hm) img n cut hi,
    read_persistTaken hm img n hi]
  by_cases h : writePlace i = n
  · simp [h]
  · simp [h]

/-! ### The copies in a record -/

/-- A record holds a valid copy of `v` in bytes `i` to `i + 4` (R300). -/
def HoldsCopy (rec : List Byte) (i : Nat) (v : Word) : Prop := ∀ k < 5, rec.getD (i + k) 0 = (copyBytes v).getD k 0

/-- A record holds two valid copies of `v` from byte `i` on (R300). -/
def HoldsPair (rec : List Byte) (i : Nat) (v : Word) : Prop := HoldsCopy rec i v ∧ HoldsCopy rec (i + 5) v

/-- Four bytes stored least-significant first give their value back (R66): each bit lies in one byte only. -/
theorem assembleLE_le4 (v : Word) :
    assembleLE (v.extractLsb' 0 8) (v.extractLsb' 8 8) (v.extractLsb' 16 8) (v.extractLsb' 24 8) = v := by
  apply BitVec.eq_of_getLsbD_eq
  intro i hi
  simp only [assembleLE, BitVec.getLsbD_or, BitVec.getLsbD_shiftLeft, BitVec.getLsbD_setWidth,
    BitVec.getLsbD_extractLsb']
  grind

/-- A copy whose value bytes are `v`'s has value `v`, whatever its checksum byte is (R304). -/
theorem copyAt_value {rec : List Byte} {i : Nat} {v : Word}
    (h : ∀ k, k ≠ 0 → k < 5 → rec.getD (i + k) 0 = (copyBytes v).getD k 0) : (copyAt rec i).value = v := by
  simp only [copyAt, h 1 (by decide) (by decide), h 2 (by decide) (by decide), h 3 (by decide) (by decide),
    h 4 (by decide) (by decide)]
  exact assembleLE_le4 v

/-- A copy that is held is valid (R304). -/
theorem HoldsCopy.copyAt_eq {rec : List Byte} {i : Nat} {v : Word} (h : HoldsCopy rec i v) :
    copyAt rec i = ⟨v, true⟩ := by
  have hchk : rec.getD i 0 = chkByte v := h 0 (by decide)
  calc copyAt rec i = ⟨(copyAt rec i).value, rec.getD i 0 == chkByte (copyAt rec i).value⟩ := rfl
    _ = ⟨v, true⟩ := by rw [copyAt_value fun k _ hk => h k hk, hchk, beq_self_eq_true]

/-- The image PERSIST writes holds the read cursor's pair from byte 5 on and the write cursor's from byte 15 (R300). -/
theorem recordImage_holdsPairs (cid : Descriptor) (rd wr : Word) :
    HoldsPair (recordImage (idTag cid) rd wr) 5 rd ∧ HoldsPair (recordImage (idTag cid) rd wr) 15 wr := by
  refine ⟨⟨?_, ?_⟩, ?_, ?_⟩
  all_goals
    intro k hk
    interval_cases k <;> rfl

/-! ### RESOLVE -/

/-- RESOLVE with copy 1 valid takes copy 2 only where that is its valid successor (R305). -/
theorem resolve_of_copy1_valid (v : Word) (b : Copy) :
    resolve ⟨v, true⟩ b = (if b.valid ∧ b.value = v + 1 then b.value else v, true) := by
  obtain ⟨h, -⟩ | ⟨h, -⟩ | ⟨-, hb, hsucc, -, h⟩ | ⟨-, hb | hb | hb, h⟩ := resolve_cases ⟨v, true⟩ b
  · cases h
  · cases h
  · rw [h, if_pos ⟨hb, hsucc⟩]
  · simp [h, hb]
  · simp [h, ← hb]
  · rw [h, if_neg fun hs => hb hs.2]

/-- RESOLVE with copy 2 valid keeps copy 1 only where that is valid and not its predecessor (R305). -/
theorem resolve_of_copy2_valid (a : Copy) (v : Word) :
    resolve a ⟨v, true⟩ = (if a.valid ∧ v ≠ a.value + 1 then a.value else v, true) := by
  obtain ⟨-, h, -⟩ | ⟨ha, -, h⟩ | ⟨-, -, hsucc, -, h⟩ | ⟨ha, hv | hv | hv, h⟩ := resolve_cases a ⟨v, true⟩
  · cases h
  · simp [h, ha]
  · rw [h, if_neg fun hs => hs.2 hsucc]
  · cases hv
  · simp [h, hv]
  · rw [h, if_pos ⟨ha, hv⟩]

/-- A valid copy 1 and a copy 2 with the same value resolve to it, whether copy 2 is valid or not (R305). -/
theorem resolve_of_value_eq {a b : Copy} {v : Word} (ha : a = ⟨v, true⟩) (hb : b.value = v) :
    resolve a b = (v, true) := by
  rw [ha, resolve_of_copy1_valid, hb, ite_self]

/-- A cut while copy 2 is written finds copy 1 with the old value (R310). -/
theorem cutOutcome_of_copy1_old {o n : Word} {j : Nat} {a : Copy} (b : Copy) (hj : j < 5) (ha : a = ⟨o, true⟩) :
    CutOutcome o n j a b (resolve a b) := by
  subst ha
  rw [resolve_of_copy1_valid]
  refine ⟨rfl, ?value, fun _ => ⟨rfl, ?invalid, ?equal⟩, fun h => absurd h (by omega), fun h => ?whole⟩
  case value => dsimp only; split <;> simp
  case invalid => intro hb; simp [hb]
  case equal => intro hb; simp [hb]
  case whole => omega

/-- A cut while copy 1 is written, or after it, finds copy 2 with the new value (R310). -/
theorem cutOutcome_of_copy2_new {o n : Word} {j : Nat} {a b : Copy} (hj : 5 ≤ j) (hb : b = ⟨n, true⟩)
    (hend : j = 10 → a = ⟨n, true⟩) : CutOutcome o n j a b (resolve a b) := by
  subst hb
  rw [resolve_of_copy2_valid]
  refine ⟨rfl, ?value, fun h => absurd h (by omega), fun _ => ⟨rfl, ?invalid, ?succ, ?other⟩, ?whole⟩
  case value => dsimp only; split <;> simp
  case invalid => intro ha; simp [ha]
  case succ => rintro rfl h; simp [h]
  case other => rintro rfl h; exact if_pos ⟨rfl, h⟩
  case whole => intro h; simp [hend h]

/-! ### A copy in the record found -/

/-- The copy in bytes `i` to `i + 4` is written in one run, from place `p` of PERSIST_ORDER on. -/
def CopyPlace (i p : Nat) : Prop := i + 5 ≤ recordBytes ∧ ∀ k < 5, writePlace (i + k) = p + k

/-- The ten bytes from `c` on are a cursor's group, written from place `c` on with copy 2 before copy 1 (R309). -/
def CursorGroup (c : Nat) : Prop := CopyPlace c (c + 5) ∧ CopyPlace (c + 5) c

theorem cursorGroup_read : CursorGroup 5 := by
  unfold CursorGroup CopyPlace
  decide

theorem cursorGroup_write : CursorGroup 15 := by
  unfold CursorGroup CopyPlace
  decide

section
variable {img old : List Byte} {m i p : Nat} {cut : Byte} {v : Word} (hp : CopyPlace i p)
include hp

/-- A copy written before the loss is the image's. -/
theorem holdsCopy_cutRecord_written (h : HoldsCopy img i v) (hm : p + 5 ≤ m) :
    HoldsCopy (cutRecord img old m cut) i v := by
  obtain ⟨hi, hplace⟩ := hp
  intro k hk
  rw [cutRecord_getD img old m cut (by omega), hplace k hk, if_pos (by omega)]
  exact h k hk

/-- A copy whose turn had not come, or whose first write the loss cut, keeps its value bytes. -/
theorem copyAt_cutRecord_value (h : HoldsCopy old i v) (hm : m ≤ p) :
    (copyAt (cutRecord img old m cut) i).value = v := by
  obtain ⟨hi, hplace⟩ := hp
  refine copyAt_value fun k h0 hk => ?_
  rw [cutRecord_getD img old m cut (by omega), hplace k hk, if_neg (by omega), if_neg (by omega)]
  exact h k hk

/-- A copy whose turn had not come is the old one. -/
theorem holdsCopy_cutRecord_kept (h : HoldsCopy old i v) (hm : m < p) : HoldsCopy (cutRecord img old m cut) i v := by
  obtain ⟨hi, hplace⟩ := hp
  intro k hk
  rw [cutRecord_getD img old m cut (by omega), hplace k hk, if_neg (by omega), if_neg (by omega)]
  exact h k hk

end

/-! ### The two groups of a cut persist -/

section
variable {img old : List Byte} {m c : Nat} {cut : Byte} (hc : CursorGroup c)
include hc

/-- The group of the cursor that the persist does not move resolves to its value; the loss may have cut the group's
first write, which is copy 2's checksum byte (R310). -/
theorem resolve_unmoved_group {v : Word} (himg : HoldsPair img c v) (hold : HoldsPair old c v)
    (hm : m ≤ c ∨ c + 10 ≤ m) :
    resolve (copyAt (cutRecord img old m cut) c) (copyAt (cutRecord img old m cut) (c + 5)) = (v, true) := by
  obtain ⟨hplace1, hplace2⟩ := hc
  obtain ⟨himg1, himg2⟩ := himg
  obtain ⟨hold1, hold2⟩ := hold
  rcases hm with hm | hm
  · exact resolve_of_value_eq (holdsCopy_cutRecord_kept hplace1 hold1 (by omega)).copyAt_eq
      (copyAt_cutRecord_value hplace2 hold2 hm)
  · exact resolve_of_value_eq (holdsCopy_cutRecord_written hplace1 himg1 hm).copyAt_eq
      (congrArg Copy.value (holdsCopy_cutRecord_written hplace2 himg2 (by omega)).copyAt_eq)

/-- The moved cursor's group resolves as R310 says. -/
theorem cutOutcome_moved_group {o n : Word} (himg : HoldsPair img c n) (hold : HoldsPair old c o) (hlo : c ≤ m)
    (hhi : m ≤ c + 10) :
    CutOutcome o n (m - c) (copyAt (cutRecord img old m cut) c) (copyAt (cutRecord img old m cut) (c + 5))
      (resolve (copyAt (cutRecord img old m cut) c) (copyAt (cutRecord img old m cut) (c + 5))) := by
  obtain ⟨hplace1, hplace2⟩ := hc
  obtain ⟨himg1, himg2⟩ := himg
  obtain ⟨hold1, -⟩ := hold
  rcases Nat.lt_or_ge m (c + 5) with hm | hm
  · exact cutOutcome_of_copy1_old _ (by omega) (holdsCopy_cutRecord_kept hplace1 hold1 hm).copyAt_eq
  · exact cutOutcome_of_copy2_new (by omega) (holdsCopy_cutRecord_written hplace2 himg2 hm).copyAt_eq
      fun _ => (holdsCopy_cutRecord_written hplace1 himg1 (by omega)).copyAt_eq

end

/-- Once the tag is written the record found is the card's (R303, R309). -/
theorem take_cutRecord (cid : Descriptor) (rd wr : Word) (old : List Byte) {m : Nat} (hm : 5 ≤ m) (cut : Byte) :
    (cutRecord (recordImage (idTag cid) rd wr) old m cut).take 5 = idTag cid := by
  have hplace : ∀ i < 5, writePlace i = i := by decide
  have hbytes : (cutRecord (recordImage (idTag cid) rd wr) old m cut).take 5 =
      (List.range 5).map fun i => (recordImage (idTag cid) rd wr).getD i 0 := by
    rw [cutRecord, ← List.map_take, List.take_range]
    apply List.map_congr_left
    intro i hi
    have hi5 : i < 5 := List.mem_range.1 hi
    rw [hplace i hi5, if_pos (by omega)]
  rw [hbytes]
  rfl

/-- Settles O37: the record found is the cut image byte by byte; the unmoved cursor's group is whole but perhaps for one
checksum byte, and the moved one's has its first copy old or its second new (R310). -/
theorem cutPersistIsTolerated : Obligations.CutPersistIsTolerated := by
  intro s t old m cut hp hwf
  obtain ⟨-, rfl⟩ := persist_cases hp
  have hevents : (persistWith (idTag s.cid) s).events.drop s.events.length =
      imageEvents s.cfg persistOrder (recordImage (idTag s.cid) s.rdCursor s.wrCursor) := by
    simp [persistWith_eq]
  simp only [hevents, recordOf_cutPersist hwf]
  obtain ⟨hrd, hwr⟩ := recordImage_holdsPairs s.cid s.rdCursor s.wrCursor
  refine ⟨fun hold h5 h15 => ?readMoved, fun hold h15 h25 => ?writeMoved⟩
  case readMoved =>
    obtain ⟨hrdOld, hwrOld⟩ := recordImage_holdsPairs s.cid old s.wrCursor
    rw [hold]
    exact ⟨take_cutRecord _ _ _ _ h5 cut, resolve_unmoved_group cursorGroup_write hwr hwrOld (.inl h15),
      cutOutcome_moved_group cursorGroup_read hrd hrdOld h5 h15⟩
  case writeMoved =>
    obtain ⟨hrdOld, hwrOld⟩ := recordImage_holdsPairs s.cid s.rdCursor old
    rw [hold]
    exact ⟨take_cutRecord _ _ _ _ (by omega) cut, resolve_unmoved_group cursorGroup_read hrd hrdOld (.inr h15),
      cutOutcome_moved_group cursorGroup_write hwr hwrOld h15 h25⟩

end Sys2Proof.Machine
end

section
/-! The encoding statements (spec 30_encoding.md), first part: the decoder and the encoder undo each other (R91 to R98),
and a word placed where the step fetches runs next (R90, R96). -/

namespace Sys2Proof.Machine

/-! ### The fields of a frame -/

/-- A frame is its fields: the two bits 0b01, the command index, the argument, the CRC-7 and the stop bit (R96). -/
theorem frame_eq_fields (f : Frame) :
    f = f.extractLsb' 46 2 ++ f.extractLsb' 40 6 ++ f.extractLsb' 8 32 ++ (f.extractLsb' 1 7 ++ f.extractLsb' 0 1) := by
  rw [BitVec.extractLsb'_append_extractLsb'_eq_extractLsb' (show 46 = 40 + 6 from rfl),
    BitVec.extractLsb'_append_extractLsb'_eq_extractLsb' (show 40 = 8 + 32 from rfl),
    BitVec.extractLsb'_append_extractLsb'_eq_extractLsb' (show 1 = 0 + 1 from rfl),
    BitVec.extractLsb'_append_extractLsb'_eq_extractLsb' (show 8 = 0 + (7 + 1) from rfl)]
  exact BitVec.extractLsb'_eq_self.symm

/-- The two bits 0b01 stand above the command index (R96). -/
theorem frameByte0_eq (idx : BitVec 6) : frameByte0 idx = 0b01#2 ++ idx := by
  revert idx
  decide

/-- The trailer is the checksum above the stop bit (R132). -/
theorem frameTrailer_eq (c : BitVec 7) : frameTrailer c = c ++ 1#1 := by
  revert c
  decide

theorem frameWord_eq_fields (idx : BitVec 6) (arg : Word) :
    frameWord idx arg = 0b01#2 ++ idx ++ arg ++ (crc7 (frameHead idx arg) ++ 1#1) := by
  rw [frameWord, frameByte0_eq, frameTrailer_eq]

section Fields
variable (p : BitVec 2) (idx : BitVec 6) (arg : Word) (c : BitVec 7) (e : BitVec 1)

theorem extract_top_fields : (p ++ idx ++ arg ++ (c ++ e)).extractLsb' 46 2 = p := by
  rw [BitVec.extractLsb'_append_eq_of_le (by decide), BitVec.extractLsb'_append_eq_of_le (by decide)]
  exact BitVec.extractLsb'_append_eq_left

theorem extract_index_fields : (p ++ idx ++ arg ++ (c ++ e)).extractLsb' 40 6 = idx := by
  rw [BitVec.extractLsb'_append_eq_of_le (by decide), BitVec.extractLsb'_append_eq_of_le (by decide)]
  exact BitVec.extractLsb'_append_eq_right

theorem extract_argument_fields : (p ++ idx ++ arg ++ (c ++ e)).extractLsb' 8 32 = arg := by
  rw [BitVec.extractLsb'_append_eq_of_le (by decide)]
  exact BitVec.extractLsb'_append_eq_right

theorem extract_crc_fields : (p ++ idx ++ arg ++ (c ++ e)).extractLsb' 1 7 = c := by
  rw [BitVec.extractLsb'_append_eq_of_add_le (by decide)]
  exact BitVec.extractLsb'_append_eq_left

theorem extract_stop_fields : (p ++ idx ++ arg ++ (c ++ e)).extractLsb' 0 1 = e := by
  rw [BitVec.extractLsb'_append_eq_of_add_le (by decide)]
  exact BitVec.extractLsb'_append_eq_right

end Fields

/-! ### Decoding a frame -/

/-- A frame built as R96 says passes the tests of its top bits, stop bit and CRC-7. -/
theorem decodeFrame_frameWord (idx : BitVec 6) (arg : Word) :
    decodeFrame (frameWord idx arg) = decodeCommand idx arg := by
  have htop : (frameWord idx arg).extractLsb' 46 2 = 0b01#2 := by
    rw [frameWord_eq_fields]; exact extract_top_fields ..
  have hidx : (frameWord idx arg).extractLsb' 40 6 = idx := by
    rw [frameWord_eq_fields]; exact extract_index_fields ..
  have harg : (frameWord idx arg).extractLsb' 8 32 = arg := by
    rw [frameWord_eq_fields]; exact extract_argument_fields ..
  have hcrc : (frameWord idx arg).extractLsb' 1 7 = crc7 (frameHead idx arg) := by
    rw [frameWord_eq_fields]; exact extract_crc_fields ..
  have hstop : (frameWord idx arg).extractLsb' 0 1 = 1#1 := by
    rw [frameWord_eq_fields]; exact extract_stop_fields ..
  simp [decodeFrame, BitVec.getLsbD_eq_extractLsb', htop, hidx, harg, hcrc, hstop]

/-- A frame that decodes is the one built of its own index and argument (R96). -/
theorem decodeFrame_ok {f : Frame} {i : Instr} (h : decodeFrame f = .ok i) :
    ∃ idx arg, f = frameWord idx arg ∧ decodeCommand idx arg = .ok i := by
  unfold decodeFrame at h
  dsimp only at h
  split_ifs at h with htop hstop hcrc
  rw [not_not] at htop hcrc
  have hbit : f.extractLsb' 0 1 = 1#1 := by
    rw [BitVec.getLsbD_eq_extractLsb'] at hstop
    simpa using hstop
  refine ⟨_, _, ?_, h⟩
  rw [frameWord_eq_fields, ← htop, ← hcrc, ← hbit]
  exact frame_eq_fields f

/-! ### The command table -/

/-- A row of R97 whose argument is fixed: the command decoded is the row's, and the argument is the row's. -/
theorem needArg_row {idx row : BitVec 6} {want arg : Word} {i j : Instr} (hidx : idx = row)
    (h : needArg want arg i = .ok j) (hwf : i.wellFormed = true) (hrow : encode i = .frame (frameWord row want)) :
    j.wellFormed = true ∧ encode j = .frame (frameWord idx arg) := by
  unfold needArg at h
  split at h
  next harg =>
    obtain rfl := Except.ok.inj h
    exact ⟨hwf, by rw [hrow, hidx, harg]⟩
  next => cases h

/-- The command that an index and an argument spell is well formed, and they spell its frame (R97, R98). -/
theorem decodeCommand_ok {idx : BitVec 6} {arg : Word} {i : Instr} (h : decodeCommand idx arg = .ok i) :
    i.wellFormed = true ∧ encode i = .frame (frameWord idx arg) := by
  unfold decodeCommand at h
  repeat' split at h
  · exact needArg_row ‹idx = idxGoIdle› h rfl rfl
  · exact needArg_row ‹idx = idxIfCond› h rfl rfl
  · exact needArg_row ‹idx = idxAppPrefix› h rfl rfl
  · obtain rfl := Except.ok.inj h
    obtain rfl := ‹idx = idxInitOp›
    exact ⟨by simpa [Instr.wellFormed] using ‹arg = 0 ∨ arg = hcsArg›, rfl⟩
  · cases h
  · exact needArg_row ‹idx = idxReadOcr› h rfl rfl
  · exact needArg_row ‹idx = idxSetBlocklen› h rfl rfl
  · exact needArg_row ‹idx = idxReadCid› h rfl rfl
  · exact needArg_row ‹idx = idxReadCsd› h rfl rfl
  · obtain rfl := Except.ok.inj h
    obtain rfl := ‹idx = idxReadBlock›
    exact ⟨rfl, rfl⟩
  · obtain rfl := Except.ok.inj h
    obtain rfl := ‹idx = idxWriteBlock›
    exact ⟨rfl, rfl⟩
  · exact needArg_row ‹idx = idxSendStatus› h rfl rfl
  · cases h

/-! ### Host words -/

/-- A host word is its fields: RSV, OP and DATA (R90). -/
theorem hostWord_eq_fields (hc : HostWord) : hc = hc.extractLsb' 11 5 ++ hc.extractLsb' 8 3 ++ hc.extractLsb' 0 8 := by
  rw [BitVec.extractLsb'_append_extractLsb'_eq_extractLsb' (show 11 = 8 + 3 from rfl),
    BitVec.extractLsb'_append_extractLsb'_eq_extractLsb' (show 8 = 0 + 8 from rfl)]
  exact BitVec.extractLsb'_eq_self.symm

/-- WRITE's word carries its data byte below RSV = 0 and OP = 2 (R91). -/
theorem decodeHost_write (v : Byte) : decodeHost (0x02#8 ++ v) = .ok (.write v) := by
  have hrsv : (0x02#8 ++ v).extractLsb' 11 5 = 0 := by
    rw [BitVec.extractLsb'_append_eq_of_le (by decide)]
    rfl
  have hop : (0x02#8 ++ v).extractLsb' 8 3 = 2 := by
    rw [BitVec.extractLsb'_append_eq_of_le (by decide)]
    rfl
  have hdata : (0x02#8 ++ v).extractLsb' 0 8 = v := BitVec.extractLsb'_append_eq_right
  simp [decodeHost, hrsv, hop, hdata]

/-- A row of R91 whose DATA is 0: the operation decoded is the row's, and the word is the row's. -/
theorem needZeroData_row {hc : HostWord} {op : BitVec 3} {i j : Instr} (hrsv : hc.extractLsb' 11 5 = 0)
    (hop : hc.extractLsb' 8 3 = op) (h : needZeroData hc i = .ok j) (hwf : i.wellFormed = true)
    (hrow : encode i = .host (0#5 ++ op ++ 0#8)) : j.wellFormed = true ∧ encode j = .host hc := by
  unfold needZeroData at h
  split at h
  next hdata =>
    obtain rfl := Except.ok.inj h
    refine ⟨hwf, ?_⟩
    rw [hrow, hostWord_eq_fields hc, hrsv, hop, hdata]
    rfl
  next => cases h

/-- The operation that a host word spells is well formed, and the word is its own (R91, R92). -/
theorem decodeHost_ok {hc : HostWord} {i : Instr} (h : decodeHost hc = .ok i) :
    i.wellFormed = true ∧ encode i = .host hc := by
  unfold decodeHost at h
  split at h
  · cases h
  next hrsv =>
    rw [not_not] at hrsv
    split at h
    next hop => exact needZeroData_row hrsv hop h rfl rfl
    next hop => exact needZeroData_row hrsv hop h rfl rfl
    next hop =>
      obtain rfl := Except.ok.inj h
      refine ⟨rfl, ?_⟩
      conv_rhs => rw [hostWord_eq_fields hc, hrsv, hop]
      rfl
    next hop => exact needZeroData_row hrsv hop h rfl rfl
    next hop => exact needZeroData_row hrsv hop h rfl rfl
    next => cases h

/-! ### The decoder and the encoder -/

/-- A command's frame decodes to it where its index and argument do (R96, R97). -/
theorem decode_of_command {i : Instr} {idx : BitVec 6} {arg : Word} (hencode : encode i = .frame (frameWord idx arg))
    (hcommand : decodeCommand idx arg = .ok i) : decode (encode i) = .ok i := by
  rw [hencode, decode, decodeFrame_frameWord, hcommand]

/-- Settles O1: the five host words decode as R94 says, and a command's frame decodes as its index and argument do. -/
theorem decodeOfEncode : Obligations.DecodeOfEncode := by
  intro i hwf
  cases i
  case init | read | erase | getStatus => rfl
  case write v => exact decodeHost_write v
  case initOp arg =>
    have harg : arg = 0 ∨ arg = hcsArg := by simpa [Instr.wellFormed] using hwf
    exact decode_of_command rfl (if_pos harg)
  all_goals exact decode_of_command rfl rfl

/-- Settles O2: an accepted word is its fields, and an accepted frame is the one built of its index and argument. -/
theorem encodeOfDecode : Obligations.EncodeOfDecode := by
  intro r i h
  cases r with
  | host hc => exact decodeHost_ok h
  | frame f =>
    obtain ⟨idx, arg, rfl, hcommand⟩ := decodeFrame_ok h
    exact decodeCommand_ok hcommand

/-- Settles O3: each word and frame is evaluated, its checksum computed bit by bit (R91, R92, R96, R97). -/
theorem sampleWordsDecode : Obligations.SampleWordsDecode := by
  unfold Obligations.SampleWordsDecode
  decide +kernel

/-! ### A word placed where the step fetches -/

theorem decodeTableWord_some {nbits w : Nat} {i : Instr} (h : decodeTableWord nbits w = some i) :
    decode (requestOfBits nbits w) = .ok i := by
  unfold decodeTableWord at h
  split at h
  · cases hd : decode (requestOfBits nbits w) with
    | ok j =>
      rw [hd] at h
      exact congrArg Except.ok (Option.some.inj h)
    | error e =>
      rw [hd] at h
      cases h
  · cases h

/-- Outside INIT's loop the position of SEQ, the host port and a pending power loss do not make a launch fault (R42). -/
theorem launchFault_none_of_seq {s : State} (h : launchFault s = none) {q : Seq} (hq : q ≠ .initLoop)
    (inbox : List HostWord) (power : Option PowerCut) :
    launchFault { s with seq := q, inbox := inbox, power := power } = none := by
  obtain ⟨hmode, hversion, hoffset, hopen, -, hflags⟩ := (launchFault_none_iff s).1 h
  exact (launchFault_none_iff _).2 ⟨hmode, hversion, hoffset, hopen, fun hloop => absurd hloop hq, hflags⟩

/-- Settles O52: a host word is the oldest one presented, and a frame is the one the framer holds. -/
theorem fetchWordRunsNext : Obligations.FetchWordRunsNext := by
  intro s nbits w i hl hd
  have hdecode := decodeTableWord_some hd
  rw [State.withFetchWord]
  generalize requestOfBits nbits w = r at hdecode ⊢
  rw [step_of_power_none (by cases r <;> rfl)]
  cases r with
  | host hc =>
    rw [presentNext, cycle_of_inbox_cons ⟨launchFault_none_of_seq hl (by decide) _ _, rfl⟩ rfl,
      runRequest_of_decode hdecode]
  | frame f =>
    rw [presentNext, cycle_of_framing (launchFault_none_of_seq hl (by simp) s.inbox _) rfl,
      runRequest_of_decode hdecode]

end Sys2Proof.Machine
end

section
/-! The encoding statements, second part: a bare command sends its own frame (R96, R150), and GET_STATUS with no page open
(R93, R273). -/

namespace Sys2Proof.Machine

/-! ### A command's frame on the bus -/

/-- A frame's six bytes, F0 first (R96). -/
def bytesOfFrame (f : Frame) : List Byte :=
  [f.extractLsb' 40 8, f.extractLsb' 32 8, f.extractLsb' 24 8, f.extractLsb' 16 8, f.extractLsb' 8 8, f.extractLsb' 0 8]

/-- The bytes of a frame built as R96 says are those SEND transmits (R150). -/
theorem bytesOfFrame_frameWord (idx : BitVec 6) (arg : Word) :
    bytesOfFrame (frameWord idx arg) = frameBytes idx arg := by
  have hfirst : (frameWord idx arg).extractLsb' 40 8 = frameByte0 idx := by
    rw [frameWord, BitVec.extractLsb'_append_eq_of_le (by decide)]
    exact BitVec.extractLsb'_append_eq_left
  have hlast : (frameWord idx arg).extractLsb' 0 8 = frameTrailer (crc7 (frameHead idx arg)) :=
    BitVec.extractLsb'_append_eq_right
  have hargument (n : Nat) (hn : n + 8 ≤ 32) : (frameWord idx arg).extractLsb' (n + 8) 8 = arg.extractLsb' n 8 := by
    rw [frameWord, BitVec.extractLsb'_append_eq_of_le (by omega), BitVec.extractLsb'_append_eq_of_add_le (by omega),
      Nat.add_sub_cancel]
  rw [bytesOfFrame, hfirst, hlast, hargument 24 (by decide), hargument 16 (by decide), hargument 8 (by decide),
    hargument 0 (by decide)]
  rfl

/-- From `s` to `t` the card is selected and a frame's six bytes are exchanged first (R150). -/
def SendsFrame (f : Frame) (s t : State) : Prop :=
  ∃ new, t.events = s.events ++ Event.select :: (List.zipWith Event.xchg (bytesOfFrame f) (replies s 6) ++ new)

/-- What is done after the frame only adds events (R10). -/
theorem SendsFrame.ran {f : Frame} {s t u : State} (h : SendsFrame f s t) (hran : Ran t u) : SendsFrame f s u := by
  obtain ⟨new, ht⟩ := h
  obtain ⟨later, hu, -⟩ := hran
  exact ⟨new ++ later, by rw [hu, ht]; simp⟩

theorem sendsFrame_sendFrame (idx : BitVec 6) (arg : Word) (s : State) :
    SendsFrame (frameWord idx arg) s (sendFrame idx arg s) := by
  have hreplies : replies (select s) 6 = replies s 6 := replies_congr rfl rfl 6
  refine ⟨[], ?_⟩
  rw [sendFrame_eq, bytesOfFrame_frameWord, ← hreplies]
  simp [exchanged]

/-- After its frame SEND waits for R1, takes the tail and may release (R152 to R155). -/
theorem sendsFrame_send (idx : BitVec 6) (arg : Word) (shape : Shape) (keep : Bool) (s : State) :
    SendsFrame (frameWord idx arg) s (send idx arg shape keep s) := by
  have hwait := (sendsFrame_sendFrame idx arg s).ran (ran_ncrWait _)
  have hbody (tail : Bool) : SendsFrame (frameWord idx arg) s
      (if tail then responseTail shape (ncrWait (sendFrame idx arg s)) else ncrWait (sendFrame idx arg s)) := by
    cases tail
    · exact hwait
    · exact hwait.ran (ran_responseTail shape _)
  cases keep
  · exact (hbody _).ran (ran_release _)
  · exact hbody _

/-- READ_DESCRIPTOR's transfer begins with its SEND (R230, R240). -/
theorem sendsFrame_readDescriptorBytes (idx : BitVec 6) (s : State) :
    SendsFrame (frameWord idx 0) s (readDescriptorBytes idx s).2 := by
  have hopen : SendsFrame (frameWord idx 0) s (readBlockOpen idx 0 s) :=
    (sendsFrame_send idx 0 .r1 true s).ran (ran_tokenWait _).post
  unfold readDescriptorBytes
  rw [rxPayloads_eq]
  exact (hopen.ran (ran_afterReceive _ _)).ran (ran_readBlockClose _)

/-- Storing the bytes read adds no event (R240). -/
theorem sendsFrame_readCidDescriptor (s : State) : SendsFrame (frameWord idxReadCid 0) s (readCidDescriptor s) := by
  have h := sendsFrame_readDescriptorBytes idxReadCid s
  unfold readCidDescriptor
  generalize readDescriptorBytes idxReadCid s = y at h ⊢
  exact h

theorem sendsFrame_readCsdDescriptor (s : State) : SendsFrame (frameWord idxReadCsd 0) s (readCsdDescriptor s) := by
  have h := sendsFrame_readDescriptorBytes idxReadCsd s
  unfold readCsdDescriptor
  generalize readDescriptorBytes idxReadCsd s = y at h ⊢
  exact h

/-- A bare command that ran with no page open sends what its body sends. -/
theorem SendsFrame.of_whenNoPageOpen {f : Frame} {s t u : State} (h : SendsFrame f s u)
    (hrun : whenNoPageOpen s (.next u) = .next t) : SendsFrame f s t := by
  obtain ⟨-, -, hnext⟩ := whenNoPageOpen_next hrun
  injection hnext with hnext
  exact hnext ▸ h

/-- Settles O4: nine commands are one SEND, and the two that read a descriptor begin with one. -/
theorem commandSendsItsFrame : Obligations.CommandSendsItsFrame := by
  intro i f s t hi ht
  show SendsFrame f s t
  cases i
  case init | read | write | erase | getStatus => cases hi
  all_goals
    simp only [encode, Request.frame.injEq] at hi
    subst hi
  case readCid => exact (sendsFrame_readCidDescriptor s).of_whenNoPageOpen ht
  case readCsd => exact (sendsFrame_readCsdDescriptor s).of_whenNoPageOpen ht
  case readBlock | writeBlock =>
    obtain ⟨-, -, hpage⟩ := whenNoPageOpen_next ht
    obtain ⟨-, hnext⟩ := whenPageArg_next hpage
    injection hnext with hnext
    exact hnext ▸ sendsFrame_send _ _ _ _ s
  all_goals exact (sendsFrame_send _ _ _ _ s).of_whenNoPageOpen ht

/-! ### GET_STATUS -/

/-- Settles O23: with no page open there is nothing to complete, and the rest is one SEND of SEND_STATUS. -/
theorem getStatusWithNoPageOpen : Obligations.GetStatusWithNoPageOpen := by
  intro s hs hidle
  obtain ⟨hlaunched, hversion, -⟩ := hs
  obtain ⟨k, hk⟩ := exists_ncrEnds s
  refine ⟨k, hk, (whenUsable_of_launched hlaunched hversion _).trans ?_⟩
  simp only [getStatusBody, forceComplete_idle hidle, send_of_ncrEnds hk idxSendStatus 0 .r2 false (by decide)]
  rfl

end Sys2Proof.Machine
end

section
/-! The checksum statements (spec 40_checksum.md): both CRC steps are linear over exclusive or, and a running value is
shifted out by its own top bits, so a step folds a byte at a time (R130, R133, R136). -/

namespace Sys2Proof.Machine

/-! ### Linearity -/

/-- What is linear for one bit is linear for any sequence of a byte's bits. -/
theorem foldl_bits_xor {w : Nat} {f : BitVec w → Bool → BitVec w}
    (hf : ∀ c d a b, f (c ^^^ d) (a ^^ b) = f c a ^^^ f d b) (a b : Byte) (is : List Nat) (c d : BitVec w) :
    is.foldl (fun x i => f x ((a ^^^ b).getLsbD i)) (c ^^^ d) =
      is.foldl (fun x i => f x (a.getLsbD i)) c ^^^ is.foldl (fun x i => f x (b.getLsbD i)) d := by
  induction is generalizing c d with
  | nil => rfl
  | cons i is ih => rw [List.foldl_cons, List.foldl_cons, List.foldl_cons, BitVec.getLsbD_xor, hf, ih]

/-- Adding the generator polynomial `p` where a feedback bit is 1 is linear in the bit and in the shifted value. -/
theorem feedback_xor {w : Nat} (p c d : BitVec w) (a b : Bool) :
    (if (a ^^ b) = true then ((c ^^^ d) <<< 1) ^^^ p else (c ^^^ d) <<< 1) =
      (if a = true then (c <<< 1) ^^^ p else c <<< 1) ^^^ (if b = true then (d <<< 1) ^^^ p else d <<< 1) := by
  rw [BitVec.shiftLeft_xor_distrib]
  cases a with
  | false =>
    cases b with
    | false => rfl
    | true => exact BitVec.xor_assoc _ _ _
  | true =>
    cases b with
    | false =>
      show c <<< 1 ^^^ d <<< 1 ^^^ p = (c <<< 1 ^^^ p) ^^^ d <<< 1
      ac_rfl
    | true =>
      calc c <<< 1 ^^^ d <<< 1
          = c <<< 1 ^^^ (p ^^^ p) ^^^ d <<< 1 := by rw [BitVec.xor_self, BitVec.xor_zero]
        _ = (c <<< 1 ^^^ p) ^^^ (d <<< 1 ^^^ p) := by ac_rfl

theorem crc7Bit_xor (c d : BitVec 7) (a b : Bool) : crc7Bit (c ^^^ d) (a ^^ b) = crc7Bit c a ^^^ crc7Bit d b := by
  have hfb : ((c ^^^ d).getLsbD 6 ^^ (a ^^ b)) = ((c.getLsbD 6 ^^ a) ^^ (d.getLsbD 6 ^^ b)) := by
    simp only [BitVec.getLsbD_xor, Bool.xor_assoc, Bool.xor_left_comm a]
  simp only [crc7Bit, hfb, feedback_xor]

theorem crc16Bit_xor (c d : BitVec 16) (a b : Bool) :
    crc16Bit (c ^^^ d) (a ^^ b) = crc16Bit c a ^^^ crc16Bit d b := by
  have hfb : ((c ^^^ d).getLsbD 15 ^^ (a ^^ b)) = ((c.getLsbD 15 ^^ a) ^^ (d.getLsbD 15 ^^ b)) := by
    simp only [BitVec.getLsbD_xor, Bool.xor_assoc, Bool.xor_left_comm a]
  simp only [crc16Bit, hfb, feedback_xor]

theorem crc7Step_xor (a b : Byte) (c d : BitVec 7) : crc7Step (a ^^^ b) (c ^^^ d) = crc7Step a c ^^^ crc7Step b d :=
  foldl_bits_xor crc7Bit_xor a b bitOrder c d

theorem crc16Step_xor (a b : Byte) (c d : BitVec 16) :
    crc16Step (a ^^^ b) (c ^^^ d) = crc16Step a c ^^^ crc16Step b d :=
  foldl_bits_xor crc16Bit_xor a b bitOrder c d

/-! ### The running value shifted out -/

/-- A data bit equal to the running value's top bit only shifts it, whatever the generator polynomial (R130). -/
theorem crc7Bit_top (c : BitVec 7) : crc7Bit c (c.getLsbD 6) = c <<< 1 := by
  simp [crc7Bit]

/-- A byte that holds the running CRC-7 above a 0 bit shifts it out: each bit consumed meets itself at the top
(R130). -/
theorem crc7Step_ownBits (c : BitVec 7) : crc7Step (c.setWidth 8 <<< 1) c = 0 := by
  have hbit (n : Nat) (hn : n < 8) : crc7Bit (c <<< n) ((c.setWidth 8 <<< 1).getLsbD (7 - n)) = c <<< (n + 1) := by
    have htop : (c.setWidth 8 <<< 1).getLsbD (7 - n) = (c <<< n).getLsbD 6 := by
      have hsub : 7 - n - 1 = 6 - n := by omega
      rw [BitVec.getLsbD_shiftLeft, BitVec.getLsbD_shiftLeft, BitVec.getLsbD_setWidth, hsub]
      simp [show 7 - n < 8 by omega, show 6 - n < 8 by omega, show 7 - n < 1 ↔ 6 < n by omega]
    rw [htop, crc7Bit_top, BitVec.shiftLeft_add]
  have h0 := hbit 0 (by decide)
  simp only [BitVec.shiftLeft_zero] at h0
  simp only [crc7Step, bitOrder, List.foldl]
  rw [h0, hbit 1 (by decide), hbit 2 (by decide), hbit 3 (by decide), hbit 4 (by decide), hbit 5 (by decide),
    hbit 6 (by decide), hbit 7 (by decide)]
  exact BitVec.shiftLeft_eq_zero (by decide)

/-! ### A byte at a time -/

/-- A byte `b` as the exclusive or of `m` and of `b` mixed with `m`; below, `m` is chosen to shift the running value
out. -/
theorem xor_mixed (b m : Byte) : m ^^^ (b ^^^ m) = b := by
  rw [BitVec.xor_comm b m, ← BitVec.xor_assoc, BitVec.xor_self, BitVec.zero_xor]

theorem crc7Step_byteAtATime (b : Byte) (c : BitVec 7) :
    crc7Step b c = crc7Step (b ^^^ (c.setWidth 8 <<< 1)) 0 :=
  calc crc7Step b c
      = crc7Step (c.setWidth 8 <<< 1 ^^^ (b ^^^ (c.setWidth 8 <<< 1))) (c ^^^ 0#7) := by
        rw [xor_mixed, BitVec.xor_zero]
    _ = crc7Step (c.setWidth 8 <<< 1) c ^^^ crc7Step (b ^^^ (c.setWidth 8 <<< 1)) 0 := crc7Step_xor _ _ _ _
    _ = crc7Step (b ^^^ (c.setWidth 8 <<< 1)) 0 := by rw [crc7Step_ownBits]; exact BitVec.zero_xor

theorem crc16Step_byteAtATime (b : Byte) (c : BitVec 16) :
    crc16Step b c = (c <<< 8) ^^^ crc16Step (b ^^^ c.extractLsb' 8 8) 0 :=
  calc crc16Step b c
      = crc16Step (c.extractLsb' 8 8 ^^^ (b ^^^ c.extractLsb' 8 8)) (c ^^^ 0#16) := by
        rw [xor_mixed, BitVec.xor_zero]
    _ = crc16Step (c.extractLsb' 8 8) c ^^^ crc16Step (b ^^^ c.extractLsb' 8 8) 0 := crc16Step_xor _ _ _ _
    _ = (c <<< 8) ^^^ crc16Step (b ^^^ c.extractLsb' 8 8) 0 := by rw [crc16Step_topByte]

/-- Settles O6: linearity splits a step into the running value's own top bits, which shift it out, and the table entry
of the byte mixed with them; the values that R130 and R133 work out are evaluated. -/
theorem checksumsFoldByteAtATime : Obligations.ChecksumsFoldByteAtATime :=
  ⟨crc7Step_byteAtATime, crc16Step_byteAtATime, by decide⟩

end Sys2Proof.Machine
end

section
/-! The framer statements (spec 41_command_framer.md): the events of one SEND (R159), the commands with a response tail
(R153, R161, R164, R170) and the two that read a descriptor (R166, R167, R240). -/

namespace Sys2Proof.Machine

/-! ### Bytes driven on the bus -/

/-- From `s` to `t` the block drove the bytes `os` and made no other event; SEL and the parameters are kept (R9). -/
def Drove (os : List Byte) (s t : State) : Prop :=
  ∃ ins : List Byte, ins.length = os.length ∧ t.events = s.events ++ List.zipWith Event.xchg os ins ∧
    t.sel = s.sel ∧ t.cfg = s.cfg

theorem drove_nil (s : State) : Drove [] s s := ⟨[], rfl, by simp, rfl, rfl⟩

theorem drove_exchanged (os : List Byte) (s : State) : Drove os s (exchanged os s) :=
  ⟨replies s os.length, replies_length s _, rfl, rfl, rfl⟩

theorem Drove.trans {os ps : List Byte} {s t u : State} (h : Drove os s t) (h' : Drove ps t u) :
    Drove (os ++ ps) s u := by
  obtain ⟨ins, hlen, hevents, hsel, hcfg⟩ := h
  obtain ⟨ins', hlen', hevents', hsel', hcfg'⟩ := h'
  refine ⟨ins ++ ins', by simp [hlen, hlen'], ?_, hsel'.trans hsel, hcfg'.trans hcfg⟩
  rw [hevents', hevents, List.append_assoc, List.zipWith_append hlen.symm]

/-! ### The parts of SEND -/

/-- Once selected, SEND drives its frame (R150). -/
theorem drove_sendFrame (idx : BitVec 6) (arg : Word) (s : State) :
    Drove (frameBytes idx arg) (select s) (sendFrame idx arg s) := by
  rw [sendFrame_eq]
  exact drove_exchanged (frameBytes idx arg) (select s)

/-- The Ncr wait drives 1 to 9 idle bytes (R152). -/
theorem drove_ncrWait (s : State) : ∃ k, 1 ≤ k ∧ k ≤ ncrPolls ∧ Drove (List.replicate k idleByte) s (ncrWait s) := by
  obtain ⟨k, ⟨hpos, hle, -⟩, hwait⟩ := ncrWait_eq s
  rw [hwait]
  exact ⟨k, hpos, hle, drove_exchanged _ s⟩

/-- How many idle bytes a shape's response tail may drive (R153, R154). -/
def TailRuns : Shape → Nat → Prop
  | .r1, n => n = 0
  | .r1b, n => 1 ≤ n ∧ n ≤ r1bPolls
  | .r2, n => n = 1
  | .r3, n | .r7, n => n = 4

theorem drove_responseTail (shape : Shape) (s : State) :
    ∃ n, TailRuns shape n ∧ Drove (List.replicate n idleByte) s (responseTail shape s) := by
  cases shape
  case r1 => exact ⟨0, rfl, drove_nil s⟩
  case r1b =>
    obtain ⟨n, ⟨hpos, hle, -⟩, hwait⟩ := busyWait_eq r1bPolls s (by decide)
    rw [responseTail, hwait]
    exact ⟨n, ⟨hpos, hle⟩, drove_exchanged _ s⟩
  case r2 =>
    rw [responseTail, xchg_eq]
    exact ⟨1, rfl, drove_exchanged _ s⟩
  case r3 | r7 =>
    rw [responseTail, recvBytes_eq]
    exact ⟨4, rfl, drove_exchanged _ s⟩

/-- The tail is taken in full where it is taken, and drives nothing where it is not (R153). -/
theorem drove_optionalTail (taken : Bool) (shape : Shape) (s : State) :
    ∃ n, (if taken then TailRuns shape n else n = 0) ∧
      Drove (List.replicate n idleByte) s (if taken then responseTail shape s else s) := by
  cases taken
  · exact ⟨0, rfl, drove_nil s⟩
  · exact drove_responseTail shape s

/-- SEND up to its release: under select it drives its frame, `k` polls and `n` tail bytes. The tail is always taken where
the run's parameter says so (R150 to R154). -/
theorem drove_send (idx : BitVec 6) (arg : Word) (shape : Shape) (keep : Bool) (s : State) :
    ∃ k n u, 1 ≤ k ∧ k ≤ ncrPolls ∧ (TailRuns shape n ∨ n = 0 ∧ s.cfg.tailOnTimeout = false) ∧
      Drove (frameBytes idx arg ++ List.replicate (k + n) idleByte) (select s) u ∧
      send idx arg shape keep s = if keep then u else release u := by
  obtain ⟨k, hpos, hle, hwait⟩ := drove_ncrWait (sendFrame idx arg s)
  have hsent := (drove_sendFrame idx arg s).trans hwait
  have hcfg : (ncrWait (sendFrame idx arg s)).cfg = s.cfg := by
    obtain ⟨-, -, -, -, hcfg⟩ := hsent
    exact hcfg
  obtain ⟨n, hn, htail⟩ := drove_optionalTail
    (!(ncrWait (sendFrame idx arg s)).flags.cmdTimeout || (ncrWait (sendFrame idx arg s)).cfg.tailOnTimeout) shape
    (ncrWait (sendFrame idx arg s))
  refine ⟨k, n, _, hpos, hle, ?_, ?_, rfl⟩
  · rw [hcfg] at hn
    split at hn
    case isTrue => exact .inl hn
    case isFalse hskipped =>
      obtain ⟨-, hwithheld⟩ := Bool.or_eq_false_iff.1 (Bool.eq_false_iff.2 hskipped)
      exact .inr ⟨hn, hwithheld⟩
  · rw [List.replicate_add, ← List.append_assoc]
    exact hsent.trans htail

/-- Settles O11: the select, the bytes SEND drives, and the release, whose number `TailRuns` bounds for each shape. -/
theorem sendEventOrder : Obligations.SendEventOrder := by
  intro idx arg shape keep s
  obtain ⟨k, n, u, hpos, hle, hn, ⟨ins, hlen, hevents, hsel, -⟩, hsend⟩ := drove_send idx arg shape keep s
  have hlen' : ins.length = 6 + k + n := by simp [hlen, Nat.add_assoc]
  refine ⟨k, n, ins, hpos, hle, hlen', ?_, ?_⟩
  · cases keep <;> simp [hsend, hevents, idleByte, release, select, emit]
  · have hkeep : (send idx arg shape keep s).sel = keep := by
      rw [hsend]
      cases keep
      · rfl
      · exact hsel
    rcases hn with hn | ⟨rfl, hcfg⟩
    · cases shape <;> simp only [TailRuns, r1bPolls] at hn <;> simp [hn, hkeep]
    · simp [hcfg, hkeep]

/-! ### The response tail -/

/-- Four bytes taken most-significant first (R153). -/
theorem assembleBE_four (a b c d : Byte) : assembleBE [a, b, c, d] = a ++ b ++ c ++ d := by
  apply BitVec.eq_of_getLsbD_eq
  intro i hi
  simp only [assembleBE, List.foldl, BitVec.getLsbD_or, BitVec.getLsbD_shiftLeft, BitVec.getLsbD_setWidth,
    BitVec.getLsbD_append]
  grind

/-- The tail is taken after a response byte, and after a timeout where the run's parameter says so (R153). -/
theorem tailCount_of_taken {s : State} {r1 : Byte} (h : r1 ≠ idleByte ∨ s.cfg.tailOnTimeout = true) (shape : Shape) :
    tailCount s shape r1 = tailLength shape := by
  rcases h with h | h <;> simp [tailCount, h]

theorem tailCount_of_withheld {s : State} {r1 : Byte} (hr1 : r1 = idleByte) (hcfg : s.cfg.tailOnTimeout = false)
    (shape : Shape) : tailCount s shape r1 = 0 := by
  simp [tailCount, hr1, hcfg]

/-- The four tail bytes of R3 and R7 go to RESP_PAYLOAD, most-significant byte first (R153). -/
theorem afterSend_respPayload_of_taken {shape : Shape} (hshape : shape = .r3 ∨ shape = .r7) {k : Nat} {s : State}
    (h : reply s (5 + k) ≠ idleByte ∨ s.cfg.tailOnTimeout = true) (idx : BitVec 6) (arg : Word) (keep : Bool) :
    (afterSend idx arg shape keep k s).respPayload =
      reply s (6 + k) ++ reply s (7 + k) ++ reply s (8 + k) ++ reply s (9 + k) := by
  have hcount : tailCount s shape (reply s (5 + k)) = 4 := by
    rw [tailCount_of_taken h]
    rcases hshape with rfl | rfl <;> rfl
  rw [← assembleBE_four]
  exact if_pos ⟨hshape, hcount⟩

/-- The tail byte of R2 goes to RESP_B2 (R153). -/
theorem afterSend_respB2_of_taken {k : Nat} {s : State}
    (h : reply s (5 + k) ≠ idleByte ∨ s.cfg.tailOnTimeout = true) (idx : BitVec 6) (arg : Word) (keep : Bool) :
    (afterSend idx arg .r2 keep k s).respB2 = reply s (6 + k) :=
  if_pos ⟨rfl, tailCount_of_taken h .r2⟩

/-- Where the tail is withheld after a timeout, RESP_PAYLOAD keeps its value (R153). -/
theorem afterSend_respPayload_of_withheld {k : Nat} {s : State} (hr1 : reply s (5 + k) = idleByte)
    (hcfg : s.cfg.tailOnTimeout = false) (idx : BitVec 6) (arg : Word) (shape : Shape) (keep : Bool) :
    (afterSend idx arg shape keep k s).respPayload = s.respPayload := by
  simp [afterSend, tailCount_of_withheld hr1 hcfg shape]

/-- Where the tail is withheld after a timeout, RESP_B2 keeps its value (R153). -/
theorem afterSend_respB2_of_withheld {k : Nat} {s : State} (hr1 : reply s (5 + k) = idleByte)
    (hcfg : s.cfg.tailOnTimeout = false) (idx : BitVec 6) (arg : Word) (shape : Shape) (keep : Bool) :
    (afterSend idx arg shape keep k s).respB2 = s.respB2 := by
  simp [afterSend, tailCount_of_withheld hr1 hcfg shape]

/-- Settles O9: each command is one SEND, and what its tail leaves depends on whether it is taken. -/
theorem tailCommands : Obligations.TailCommands := by
  intro s hs
  obtain ⟨k, hk⟩ := exists_ncrEnds s
  have hsend (idx : BitVec 6) (arg : Word) {shape : Shape} (hshape : shape ≠ .r1b) :=
    whenNoPageOpen_send hs hk idx arg hshape false
  refine ⟨k, hk, hsend _ _ (by decide), hsend _ _ (by decide), hsend _ _ (by decide), fun htaken => ?_,
    fun hr1 hcfg => ?_⟩
  · exact ⟨afterSend_respPayload_of_taken (.inl rfl) htaken _ _ _,
      afterSend_respPayload_of_taken (.inr rfl) htaken _ _ _, afterSend_respB2_of_taken htaken _ _ _⟩
  · exact ⟨afterSend_respPayload_of_withheld hr1 hcfg _ _ .r3 _, afterSend_respPayload_of_withheld hr1 hcfg _ _ .r7 _,
      afterSend_respB2_of_withheld hr1 hcfg _ _ .r2 _⟩

/-! ### The descriptor commands -/

/-- READ_DESCRIPTOR's transfer, with its three waits named together (R240). -/
theorem readDescriptorBytes_polls (idx : BitVec 6) (s : State) :
    ∃ k j m, DescriptorPolls k j m s ∧
      readDescriptorBytes idx s =
        ((List.range 16).map fun n => reply s (6 + k + j + n), afterDescriptor idx k j m s) := by
  obtain ⟨k, j, m, hk, hj, hm, hread⟩ := readDescriptorBytes_spec idx s
  have hplace (n : Nat) : 6 + k + j + 16 + 3 + n = 25 + k + j + n := by omega
  simp only [hplace] at hm
  exact ⟨k, j, m, ⟨hk, hj, hm⟩, hread⟩

/-- The three waits end at one place each. -/
theorem DescriptorPolls_unique {s : State} {k j m k' j' m' : Nat} (h : DescriptorPolls k j m s)
    (h' : DescriptorPolls k' j' m' s) : k = k' ∧ j = j' ∧ m = m' := by
  obtain ⟨hk, hj, hm⟩ := h
  obtain ⟨hk', hj', hm'⟩ := h'
  obtain rfl := PollEnds_unique hk hk'
  obtain rfl := PollEnds_unique hj hj'
  exact ⟨rfl, rfl, PollEnds_unique hm hm'⟩

theorem readDescriptorBytes_of_polls {s : State} {k j m : Nat} (h : DescriptorPolls k j m s) (idx : BitVec 6) :
    readDescriptorBytes idx s =
      ((List.range 16).map fun n => reply s (6 + k + j + n), afterDescriptor idx k j m s) := by
  obtain ⟨k', j', m', h', hread⟩ := readDescriptorBytes_polls idx s
  obtain ⟨rfl, rfl, rfl⟩ := DescriptorPolls_unique h h'
  exact hread

theorem readCidDescriptor_of_polls {s : State} {k j m : Nat} (h : DescriptorPolls k j m s) :
    readCidDescriptor s =
      { afterDescriptor 10 k j m s with cid := descriptorBytesAt k j s, cidWritten := true } := by
  rw [readCidDescriptor, readDescriptorBytes_of_polls h]
  rfl

theorem readCsdDescriptor_of_polls {s : State} {k j m : Nat} (h : DescriptorPolls k j m s) :
    readCsdDescriptor s =
      { afterDescriptor 9 k j m s with csd := descriptorBytesAt k j s, csdWritten := true } := by
  rw [readCsdDescriptor, readDescriptorBytes_of_polls h]
  rfl

/-- Settles O10: both commands are one descriptor read, and their waits end at the same places. -/
theorem descriptorCommands : Obligations.DescriptorCommands := by
  intro s hs
  obtain ⟨k, j, m, h, -⟩ := readDescriptorBytes_polls idxReadCid s
  refine ⟨k, j, m, h, ?_, ?_⟩
  · rw [← readCidDescriptor_of_polls h]
    exact whenNoPageOpen_of_ready hs _
  · rw [← readCsdDescriptor_of_polls h]
    exact whenNoPageOpen_of_ready hs _

end Sys2Proof.Machine
end

section
/-! The negotiation statements (spec 42_negotiation.md), first part: the steps of INIT, each from what its commands
leave (R191 to R202, R205). -/

namespace Sys2Proof.Machine

/-! ### What the pieces of INIT leave -/

theorem abort_eq (c : AbortCode) (s : State) : abort c s = aborted (abortBits c) s := rfl

/-- Step 1 up to GO_IDLE (R191, R192). -/
theorem initIdleClocks_initReset (s : State) : initIdleClocks (initReset s) = initIdled s := by
  unfold initIdleClocks
  rw [sendBytes_eq]
  simp [initIdled, initReset, setClock, release, emit, initBytes]

/-- Step 4 (R196). -/
theorem initFastClock_eq (s : State) : initFastClock s = fastClocked s := by
  simp [initFastClock, fastClocked, setClock, delay, emit]

/-- INIT runs in every launched state, a page open or not (R190, R205). -/
theorem exec_init_of_launched {s : State} (h : Launched s) : exec .init s = .next (initStart s) := by
  obtain ⟨hlaunch, hseq⟩ := h
  simp only [exec, execInit, whenLaunched, hlaunch, hseq, if_true]

/-! ### INIT in an open page -/

/-- The state of the block with its page, if one is open, taken away. -/
def pageAbandoned (s : State) : State := { s with mode := .idle, offset := 0, crc16 := 0, sel := false }

theorem launched_pageAbandoned {s : State} (h : Launched s) : Launched (pageAbandoned s) := by
  obtain ⟨hlaunch, hseq⟩ := h
  obtain ⟨-, hversion, -, -, -, hflags⟩ := (launchFault_none_iff s).1 hlaunch
  have hnotLoop : (pageAbandoned s).seq ≠ .initLoop := by simp [pageAbandoned, hseq]
  exact ⟨(launchFault_none_iff _).2 ⟨nofun, hversion, Nat.zero_le _, fun h => absurd rfl h, fun h => absurd h hnotLoop,
    hflags⟩, hseq⟩

/-- Step 1 resets every register that an open page holds (R191). -/
theorem initReset_pageAbandoned (s : State) : initReset (pageAbandoned s) = initReset s := rfl

/-- Settles O46: both runs pass the launch test, and step 1 leaves them in one state. -/
theorem initAbandonsAnOpenPage : Obligations.InitAbandonsAnOpenPage := by
  intro s h
  calc exec .init s = .next (initStart s) := exec_init_of_launched h
    _ = .next (initStart (pageAbandoned s)) := by unfold initStart; rw [initReset_pageAbandoned]
    _ = exec .init (pageAbandoned s) := (exec_init_of_launched (launched_pageAbandoned h)).symm

/-! ### Step 5: one round of the loop -/

/-- At INIT's loop a step with no power loss pending is one round (R197). -/
theorem step_at_loop {s : State} (hs : Inv s) (hp : s.power = none) (hseq : s.seq = .initLoop) :
    step s = .next (initLoopRound s) := by
  rw [step_of_power_none hp]
  simp only [cycle, hs.launch, hseq]

theorem afterSend_initArg (idx : BitVec 6) (arg : Word) (shape : Shape) (keep : Bool) (k : Nat) (s : State) :
    (afterSend idx arg shape keep k s).initArg = s.initArg := rfl

/-- A round is two SENDs, and the R1 of the second says how it ends (R197). -/
theorem initLoopRound_of_ncrEnds {k j : Nat} {s t : State} (hk : NcrEnds k s)
    (hj : NcrEnds j (afterSend 55 0 .r1 false k s))
    (ht : t = afterSend 41 s.initArg .r1 false j (afterSend 55 0 .r1 false k s)) :
    initLoopRound s =
      if t.lastR1 = 0x00 then initOcr t
      else if t.lastR1 = 0x01 then { t with seq := .initLoop } else aborted 4 t := by
  have happPrefix : send idxAppPrefix 0 .r1 false s = afterSend 55 0 .r1 false k s :=
    send_of_ncrEnds hk _ _ _ _ (by decide)
  have hinit : send idxInitOp s.initArg .r1 false (afterSend 55 0 .r1 false k s) = t :=
    (send_of_ncrEnds hj idxInitOp s.initArg .r1 false (by decide)).trans ht.symm
  unfold initLoopRound
  rw [happPrefix]
  dsimp only
  rw [afterSend_initArg, hinit]
  rfl

/-- Settles O39: the step is the round, and the round ends by the R1 of INIT_OP. -/
theorem Negotiation.initLoopRound : Obligations.InitLoopRound := by
  refine ⟨fun s hs hp hseq => step_at_loop hs hp hseq, fun s => ?_⟩
  obtain ⟨k, hk⟩ := exists_ncrEnds s
  obtain ⟨j, hj⟩ := exists_ncrEnds (afterSend 55 0 .r1 false k s)
  have hround := initLoopRound_of_ncrEnds hk hj rfl
  refine ⟨k, j, hk, hj, fun h0 => ?_, fun h1 => ?_, fun h0 h1 => ?_⟩
  · rw [hround, if_pos h0]
  · rw [hround, if_neg (by rw [h1]; decide), if_pos h1]
  · rw [hround, if_neg h0, if_neg h1]

/-! ### Steps 6 and 7: capacity class and block length -/

/-- Step 6 does nothing but on a version-2 card (R199). -/
theorem initOcr_of_not_version2 {s : State} (hv : s.version ≠ .v2) : initOcr s = initBlocklen s := if_neg hv

/-- Step 6 on a version-2 card (R199). -/
theorem initOcr_of_ncrEnds {k : Nat} {s t : State} (hv : s.version = .v2) (hk : NcrEnds k s)
    (ht : t = afterSend 58 0 .r3 false k s) :
    initOcr s =
      if t.lastR1 = 0x00 then
        initBlocklen { t with capacity := if t.respPayload.getLsbD 30 then .hc else .sc }
      else aborted 5 t := by
  have hsend : send idxReadOcr 0 .r3 false s = t := (send_of_ncrEnds hk _ _ _ _ (by decide)).trans ht.symm
  unfold initOcr
  rw [if_pos hv, hsend]
  rfl

/-- Step 7 (R200). -/
theorem initBlocklen_of_ncrEnds {k : Nat} {s t : State} (hk : NcrEnds k s)
    (ht : t = afterSend 16 512 .r1 false k s) :
    initBlocklen s = if t.lastR1 = 0x00 then initDescriptors t else aborted 6 t := by
  have hsend : send idxSetBlocklen blocklenArg .r1 false s = t :=
    (send_of_ncrEnds hk _ _ _ _ (by decide)).trans ht.symm
  unfold initBlocklen
  rw [hsend]
  rfl

/-- Settles O40: each of the two steps is one SEND whose R1 is tested. -/
theorem initCapacityAndBlockLength : Obligations.InitCapacityAndBlockLength := by
  refine ⟨fun s => initOcr_of_not_version2, fun s hv => ?_, fun s => ?_⟩
  · obtain ⟨k, hk⟩ := exists_ncrEnds s
    have hocr := initOcr_of_ncrEnds hv hk rfl
    exact ⟨k, hk, fun h => hocr.trans (if_neg h), fun h => hocr.trans (if_pos h)⟩
  · obtain ⟨k, hk⟩ := exists_ncrEnds s
    have hblocklen := initBlocklen_of_ncrEnds hk rfl
    exact ⟨k, hk, fun h => hblocklen.trans (if_neg h), fun h => hblocklen.trans (if_pos h)⟩

/-! ### Steps 8 to 10: the descriptors, the page count and the recovery -/

/-- A descriptor read fails exactly where its token wait timed out and its R1 was not 0x00 (R201). -/
theorem descriptorOk_iff (s : State) :
    descriptorOk s = true ↔ ¬ (s.flags.tokenTimeout = true ∧ s.lastR1 ≠ 0x00) := by
  simp [descriptorOk, imp_iff_not_or]

theorem exists_descriptorPolls (s : State) : ∃ k j m, DescriptorPolls k j m s := by
  obtain ⟨k, j, m, h, -⟩ := readDescriptorBytes_polls idxReadCid s
  exact ⟨k, j, m, h⟩

/-- Steps 9 and 10 (R202, R203). -/
theorem initRecover_eq (s : State) :
    initRecover s =
      returnWord 0x0001 (recover { s with totalPages := if s.version = .v2 then Config.csdPages s.csd else 0 }) := rfl

/-- Step 8 (R201), over its two descriptor reads. -/
theorem initDescriptors_eq (s : State) :
    initDescriptors s =
      if descriptorOk (readCidDescriptor s) then
        if descriptorOk (readCsdDescriptor (readCidDescriptor s)) then
          initRecover (readCsdDescriptor (readCidDescriptor s))
        else aborted 8 (readCsdDescriptor (readCidDescriptor s))
      else aborted 7 (readCidDescriptor s) := by
  simp only [initDescriptors, abort_eq, abortBits]

/-- Settles O41: the two reads leave what their waits say, and each is tested after it. -/
theorem initDescriptorsAndRecovery : Obligations.InitDescriptorsAndRecovery := by
  intro s
  obtain ⟨k, j, m, hpolls⟩ := exists_descriptorPolls s
  have hsteps := initDescriptors_eq s
  rw [readCidDescriptor_of_polls hpolls] at hsteps
  refine ⟨k, j, m, hpolls, fun hfail => ?_, fun hok => ?_⟩
  · rw [hsteps, if_neg fun h => (descriptorOk_iff _).1 h hfail]
  · rw [if_pos ((descriptorOk_iff _).2 hok)] at hsteps
    obtain ⟨k', j', m', hpolls'⟩ := exists_descriptorPolls
      { afterDescriptor 10 k j m s with cid := descriptorBytesAt k j s, cidWritten := true }
    rw [readCsdDescriptor_of_polls hpolls'] at hsteps
    refine ⟨k', j', m', hpolls', fun hfail => ?_, fun hok' => ?_⟩
    · rw [hsteps, if_neg fun h => (descriptorOk_iff _).1 h hfail]
    · rw [hsteps, if_pos ((descriptorOk_iff _).2 hok'), initRecover_eq]

/-! ### Steps 1 to 4: the version -/

/-- R1's start bit and error bits, read as one field (R31). -/
theorem r1_fields_iff (r : Byte) (e : BitVec 5) :
    r1Start r = false ∧ r1Errors r = e ↔ r.extractLsb' 2 6 = e.setWidth 6 := by
  have hr := r.isLt
  have he := e.isLt
  have hstart : r1Start r = false ↔ r.toNat / 128 % 2 = 0 := by
    simp [r1Start, BitVec.getLsbD, Nat.testBit_eq_decide_div_mod_eq]
  rw [hstart]
  simp only [r1Errors, BitVec.toNat_eq, BitVec.extractLsb'_toNat, BitVec.toNat_setWidth, Nat.shiftRight_eq_div_pow]
  omega

/-- Step 2's three outcomes on IF_COND's R1 (R194). -/
theorem classifyR1_eq (r : Byte) :
    classifyR1 r =
      if r.extractLsb' 2 6 = 0b000001 then some .v1
      else if r.extractLsb' 2 6 = 0b000000 ∧ r.getLsbD 0 = true then some .v2 else none := by
  simp only [classifyR1, ← and_assoc, r1_fields_iff]
  rfl

/-- Step 3's echo check, as one field of the echo (R195). -/
theorem echoOk_iff (p : Word) : echoOk p = true ↔ p.extractLsb' 0 12 = 0x1AA := by
  simp only [echoOk, r7Vhs, r7Pattern, Bool.and_eq_true, beq_iff_eq, BitVec.toNat_eq, BitVec.extractLsb'_toNat,
    Nat.shiftRight_eq_div_pow, show BitVec.toNat (0x1 : BitVec 4) = 1 from rfl,
    show BitVec.toNat (0xAA : BitVec 8) = 170 from rfl, show BitVec.toNat (0x1AA : BitVec 12) = 426 from rfl]
  omega

/-- Step 1 ends by the idle flag of GO_IDLE's R1 (R193). -/
theorem initStart_of_ncrEnds {k : Nat} {s t : State} (hk : NcrEnds k (initIdled s))
    (ht : t = afterSend 0 0 .r1 false k (initIdled s)) :
    initStart s = if t.lastR1.getLsbD 0 then initClassify t else aborted 1 t := by
  have hsend : send idxGoIdle 0 .r1 false (initIdled s) = t :=
    (send_of_ncrEnds hk idxGoIdle 0 .r1 false (by decide)).trans ht.symm
  unfold initStart
  rw [initIdleClocks_initReset, hsend]
  rfl

/-- Step 3 on a version-1 card, which has no echo, then step 4 (R195, R196). -/
theorem initEcho_version1 {s : State} (hv : s.version = .v1) : initEcho s = initLoopRound (fastClocked s) := by
  simp [initEcho, hv, initFastClock_eq]

/-- Step 3 on a version-2 card, then step 4 (R195, R196). -/
theorem initEcho_version2 {s : State} (hv : s.version = .v2) :
    initEcho s =
      if s.respPayload.extractLsb' 0 12 = 0x1AA then initLoopRound (fastClocked s) else aborted 3 s := by
  simp only [initEcho, hv, true_and, ← echoOk_iff, initFastClock_eq, abort_eq, abortBits]
  cases echoOk s.respPayload <;> rfl

/-- Steps 2 to 4 (R194 to R196): IF_COND's R1 gives the version or none. -/
theorem initClassify_of_ncrEnds {j : Nat} {s u : State} (hj : NcrEnds j s)
    (hu : u = afterSend 8 0x1AA .r7 false j s) :
    initClassify s =
      if u.lastR1.extractLsb' 2 6 = 0b000001 then
        initLoopRound (fastClocked { u with version := .v1, initArg := 0 })
      else if u.lastR1.extractLsb' 2 6 = 0b000000 ∧ u.lastR1.getLsbD 0 = true then
        initEcho { u with version := .v2, initArg := 0x40000000 }
      else aborted 2 u := by
  have hsend : send idxIfCond ifCondArg .r7 false s = u :=
    (send_of_ncrEnds hj idxIfCond ifCondArg .r7 false (by decide)).trans hu.symm
  unfold initClassify
  rw [hsend]
  dsimp only
  rw [classifyR1_eq]
  split_ifs
  · exact initEcho_version1 rfl
  · rfl
  · rfl

/-- Settles O38: GO_IDLE's R1 ends step 1, IF_COND's classifies the card, and version 2's echo is checked. -/
theorem initNegotiatesTheVersion : Obligations.InitNegotiatesTheVersion := by
  intro s hl
  rw [exec_init_of_launched hl]
  obtain ⟨k, hk⟩ := exists_ncrEnds (initIdled s)
  have hstart := initStart_of_ncrEnds hk rfl
  refine ⟨k, hk, fun hidle => ?_, fun hidle => ?_⟩
  · rw [hstart, if_neg (Bool.eq_false_iff.1 hidle)]
  · rw [hstart, if_pos hidle]
    obtain ⟨j, hj⟩ := exists_ncrEnds (afterSend 0 0 .r1 false k (initIdled s))
    rw [initClassify_of_ncrEnds hj rfl]
    refine ⟨j, hj, ?version1, ?version2, ?noEcho, ?neither⟩
    case version1 =>
      intro h1
      rw [if_pos h1]
    case version2 =>
      rintro ⟨hbits, hidle⟩ hecho
      rw [if_neg (by rw [hbits]; decide), if_pos ⟨hbits, hidle⟩, initEcho_version2 rfl, if_pos hecho]
    case noEcho =>
      rintro ⟨hbits, hidle⟩ hecho
      rw [if_neg (by rw [hbits]; decide), if_pos ⟨hbits, hidle⟩, initEcho_version2 rfl, if_neg hecho]
    case neither =>
      intro h1 h2
      rw [if_neg h1, if_neg h2]

end Sys2Proof.Machine
end

section
/-! The negotiation statements, second part: how INIT can end (R190, R197, R198, R203, R204, R333). -/

namespace Sys2Proof.Machine

/-! ### The loop has no bound -/

/-- A SEND of shape R1 whose first polled byte is a response takes seven replies (R150 to R152). -/
theorem send_r1_first_poll (idx : BitVec 6) (arg : Word) {s : State} (h : reply s 6 ≠ idleByte) :
    BusOnly s (send idx arg .r1 false s) ∧ (send idx arg .r1 false s).lastR1 = reply s 6 ∧
      (send idx arg .r1 false s).card = s.card.drop 7 ∧ (send idx arg .r1 false s).draws = s.draws + 7 := by
  have hk : NcrEnds 1 s := pollEnds_one (by decide) (by simpa [acceptByte] using h)
  rw [send_of_ncrEnds hk idx arg .r1 false (by decide)]
  refine ⟨busOnly_afterSend idx arg .r1 false 1 s, ?_, ?_, ?_⟩ <;> simp [afterSend]

/-- A round against a card that answers 0x01 to everything (R197, R198): 14 exchanges, and the loop goes on. -/
theorem initLoopRound_still_idle {s : State} {rest : List Byte} (hcard : s.card = List.replicate 14 0x01 ++ rest) :
    ∃ t, initLoopRound s = { t with seq := .initLoop } ∧ BusOnly s t ∧ t.card = rest ∧ t.draws = s.draws + 14 := by
  have h6 : reply s 6 = 0x01 := by simp [reply, hcard]
  obtain ⟨hbus, -, hcard₁, hdraws⟩ := send_r1_first_poll idxAppPrefix 0 (s := s) (by rw [h6]; decide)
  unfold initLoopRound
  generalize send idxAppPrefix 0 .r1 false s = t at hbus hcard₁ hdraws
  have h6' : reply t 6 = 0x01 := by simp [reply, hcard₁, hcard]
  obtain ⟨hbus₂, hlast, hcard₂, hdraws₂⟩ := send_r1_first_poll idxInitOp t.initArg (s := t) (by rw [h6']; decide)
  refine ⟨send idxInitOp t.initArg .r1 false t, ?_, hbus.trans hbus₂, ?_, ?_⟩
  · simp only [hlast, h6', if_true]
    rfl
  · rw [hcard₂, hcard₁, hcard, List.drop_drop]
    exact List.drop_left' (by simp)
  · rw [hdraws₂, hdraws]

theorem run_succ {n : Nat} {s t : State} (h : step s = .next t) :
    Sys2Proof.core.run (n + 1) s = Sys2Proof.core.run n t := by
  have hcore : Sys2Proof.core.step s = .next t := h
  simp only [Host.Core.run, hcore]

/-- Settles O45, by induction on the number of rounds: each leaves a state of the invariant at the loop. -/
theorem initLoopHasNoBound : Obligations.InitLoopHasNoBound := by
  intro n
  induction n with
  | zero => exact fun s rest _ _ hseq hcard => ⟨s, rfl, hseq, rfl, hcard, rfl⟩
  | succ n ih =>
    intro s rest hs hp hseq hcard
    rw [Nat.mul_succ, Nat.add_comm, List.replicate_add, List.append_assoc] at hcard
    obtain ⟨t, hround, ⟨x, rfl⟩, htcard, hdraws⟩ := initLoopRound_still_idle hcard
    have hstep := step_at_loop hs hp hseq
    rw [hround] at hstep
    obtain ⟨u, hrun, huseq, hres, hucard, hudraws⟩ := ih _ rest (stepKeepsInv s _ hs hstep).1 hp rfl htcard
    refine ⟨u, (run_succ hstep).trans hrun, huseq, hres, hucard, hudraws.trans ?_⟩
    show (s.withBus x).draws + 14 * n = s.draws + 14 * (n + 1)
    omega

/-! ### The three ways a transition of INIT ends -/

/-- `t` is on INIT's way from `s` (R190): no page is open, no abort is recorded, no result word presented, and the NV
store is as it was. -/
structure Advancing (s t : State) : Prop where
  mode : t.mode = .idle
  abortCode : t.flags.abortCode = 0
  results : t.results = s.results
  nv : t.nv = s.nv

theorem Advancing.bus {s t u : State} (h : Advancing s t) (hb : BusOnly t u) : Advancing s u := by
  obtain ⟨x, rfl⟩ := hb
  exact ⟨h.mode, h.abortCode, h.results, h.nv⟩

/-- A transition of INIT begun in `s` ended in `t` with success, in an abort, or at the loop (R203, R204, R333). -/
def InitOutcome (s t : State) : Prop :=
  t.mode = .idle ∧
    ((t.version ≠ .unset ∧ t.seq = .ready ∧ t.results = s.results ++ [0x0001] ∧ t.flags.abortCode = 0 ∧
        t.cidWritten = true ∧ t.csdWritten = true ∧ t.sel = false) ∨
      (t.version = .unset ∧ t.seq = .ready ∧ t.results = s.results ++ [0x0000] ∧ 1 ≤ t.flags.abortCode.toNat ∧
        t.flags.abortCode.toNat ≤ 8 ∧ t.nv = s.nv ∧ t.sel = false) ∨
      (t.seq = .initLoop ∧ t.results = s.results ∧ t.lastR1 = 0x01 ∧ t.nv = s.nv ∧ t.sel = false))

/-- No abort code is 0 (R332). -/
theorem abortBits_pos (c : AbortCode) : 1 ≤ (abortBits c).toNat := by cases c <;> decide

theorem initOutcome_abort {s t : State} (c : AbortCode) (h : Advancing s t) : InitOutcome s (abort c t) :=
  ⟨h.mode, .inr (.inl ⟨rfl, rfl, congrArg (· ++ [0x0000]) h.results, abortBits_pos c, abortBits_le c, h.nv, rfl⟩)⟩

theorem sel_send {shape : Shape} (hshape : shape ≠ .r1b) (idx : BitVec 6) (arg : Word) (s : State) :
    (send idx arg shape false s).sel = false := by
  obtain ⟨k, -, he⟩ := send_spec idx arg shape false s hshape
  rw [he]
  rfl

/-- Steps 9 and 10 (R202, R203). -/
theorem initOutcome_initRecover {s t : State} (h : Advancing s t) (hv : t.version ≠ .unset)
    (hcid : t.cidWritten = true) (hcsd : t.csdWritten = true) (hsel : t.sel = false) :
    InitOutcome s (initRecover t) := by
  unfold initRecover
  rw [recover_eq]
  generalize recover (initPageCount t) = r
  exact ⟨h.mode, .inl ⟨hv, rfl, congrArg (· ++ [0x0001]) h.results, h.abortCode, hcid, hcsd, hsel⟩⟩

/-- A descriptor read leaves the card released (R233). -/
theorem sel_readDescriptorBytes (idx : BitVec 6) (s : State) : (readDescriptorBytes idx s).2.sel = false := by
  obtain ⟨k, j, m, -, he⟩ := readDescriptorBytes_polls idx s
  rw [he]
  rfl

/-- Reading CID stays on the way, keeps the version and marks CID as written (R201). -/
theorem advancing_readCidDescriptor {s t : State} (h : Advancing s t) :
    Advancing s (readCidDescriptor t) ∧ (readCidDescriptor t).version = t.version ∧
      (readCidDescriptor t).cidWritten = true := by
  obtain ⟨u, d, ⟨x, rfl⟩, he⟩ := readCidDescriptor_cases t
  rw [he]
  exact ⟨⟨h.mode, h.abortCode, h.results, h.nv⟩, rfl, rfl⟩

/-- Reading CSD stays on the way, keeps the version and CID's mark, and marks CSD as written (R201). -/
theorem advancing_readCsdDescriptor {s t : State} (h : Advancing s t) :
    Advancing s (readCsdDescriptor t) ∧ (readCsdDescriptor t).version = t.version ∧
      (readCsdDescriptor t).cidWritten = t.cidWritten ∧ (readCsdDescriptor t).csdWritten = true := by
  obtain ⟨u, d, ⟨x, rfl⟩, he⟩ := readCsdDescriptor_cases t
  rw [he]
  exact ⟨⟨h.mode, h.abortCode, h.results, h.nv⟩, rfl, rfl, rfl⟩

/-- Step 8 (R201). -/
theorem initOutcome_initDescriptors {s t : State} (h : Advancing s t) (hv : t.version ≠ .unset) :
    InitOutcome s (initDescriptors t) := by
  obtain ⟨hu, huv, hucid⟩ := advancing_readCidDescriptor h
  unfold initDescriptors
  generalize readCidDescriptor t = u at hu huv hucid
  obtain ⟨hw, hwv, hwcid, hwcsd⟩ := advancing_readCsdDescriptor hu
  have hsel : (readCsdDescriptor u).sel = false := sel_readDescriptorBytes idxReadCsd u
  dsimp only
  generalize readCsdDescriptor u = w at hw hwv hwcid hwcsd hsel
  have hversion : w.version ≠ .unset := by rwa [hwv, huv]
  split
  · split
    · exact initOutcome_initRecover hw hversion (hwcid.trans hucid) hwcsd hsel
    · exact initOutcome_abort _ hw
  · exact initOutcome_abort _ hu

/-- Step 7 (R200). -/
theorem initOutcome_initBlocklen {s t : State} (h : Advancing s t) (hv : t.version ≠ .unset) :
    InitOutcome s (initBlocklen t) := by
  have hb := busOnly_send (shape := .r1) (by decide) idxSetBlocklen blocklenArg false t
  unfold initBlocklen
  generalize send idxSetBlocklen blocklenArg .r1 false t = u at hb
  dsimp only
  split
  · exact initOutcome_initDescriptors (h.bus hb) (hb.version ▸ hv)
  · exact initOutcome_abort _ (h.bus hb)

/-- Step 6 (R199). -/
theorem initOutcome_initOcr {s t : State} (h : Advancing s t) (hv : t.version ≠ .unset) :
    InitOutcome s (initOcr t) := by
  have hb := busOnly_send (shape := .r3) (by decide) idxReadOcr 0 false t
  unfold initOcr
  generalize send idxReadOcr 0 .r3 false t = u at hb
  dsimp only
  split
  · split
    · have hu := h.bus hb
      have huv : u.version ≠ .unset := hb.version ▸ hv
      exact initOutcome_initBlocklen (t := { u with capacity := if ocrCcs u.respPayload then .hc else .sc })
        ⟨hu.mode, hu.abortCode, hu.results, hu.nv⟩ huv
    · exact initOutcome_abort _ (h.bus hb)
  · exact initOutcome_initBlocklen h hv

/-- Step 5, one round (R197). -/
theorem initOutcome_initLoopRound {s t : State} (h : Advancing s t) (hv : t.version ≠ .unset) :
    InitOutcome s (initLoopRound t) := by
  have hb := busOnly_send (shape := .r1) (by decide) idxAppPrefix 0 false t
  unfold initLoopRound
  generalize send idxAppPrefix 0 .r1 false t = u at hb
  have hb' := hb.trans (busOnly_send (shape := .r1) (by decide) idxInitOp u.initArg false u)
  have hsel := sel_send (shape := .r1) (by decide) idxInitOp u.initArg u
  dsimp only
  generalize send idxInitOp u.initArg .r1 false u = w at hb' hsel
  split
  · exact initOutcome_initOcr (h.bus hb') (hb'.version ▸ hv)
  · split
    · next h1 =>
      have hu := h.bus hb'
      exact ⟨hu.mode, .inr (.inr ⟨rfl, hu.results, h1, hu.nv, hsel⟩)⟩
    · exact initOutcome_abort _ (h.bus hb')

/-- Steps 3 and 4 (R195, R196). -/
theorem initOutcome_initEcho {s t : State} (h : Advancing s t) (hv : t.version ≠ .unset) :
    InitOutcome s (initEcho t) := by
  have hfast : Advancing s (initFastClock t) := ⟨h.mode, h.abortCode, h.results, h.nv⟩
  unfold initEcho
  split
  · exact initOutcome_abort _ h
  · exact initOutcome_initLoopRound hfast hv

/-- Step 2 classifies a card as version 1 or 2 (R194). -/
theorem classifyR1_known {r : Byte} {v : Version} (h : classifyR1 r = some v) : v = .v1 ∨ v = .v2 := by
  unfold classifyR1 at h
  split_ifs at h
  · injection h with h
    exact .inl h.symm
  · injection h with h
    exact .inr h.symm

/-- Step 2 (R194). -/
theorem initOutcome_initClassify {s t : State} (h : Advancing s t) : InitOutcome s (initClassify t) := by
  have hu := h.bus (busOnly_send (shape := .r7) (by decide) idxIfCond ifCondArg false t)
  unfold initClassify
  generalize send idxIfCond ifCondArg .r7 false t = u at hu
  dsimp only
  split
  · next v hclass =>
    have hknown : v ≠ .unset := by rcases classifyR1_known hclass with rfl | rfl <;> decide
    exact initOutcome_initEcho (t := { u with version := v, initArg := if v = .v2 then hcsArg else 0 })
      ⟨hu.mode, hu.abortCode, hu.results, hu.nv⟩ hknown
  · exact initOutcome_abort _ hu

/-- INIT from its start, in any state (R190 to R193). -/
theorem initOutcome_initStart (s : State) : InitOutcome s (initStart s) := by
  have hidled : Advancing s (initIdled s) := ⟨rfl, rfl, rfl, rfl⟩
  have ht := hidled.bus (busOnly_send (shape := .r1) (by decide) idxGoIdle 0 false (initIdled s))
  unfold initStart
  rw [initIdleClocks_initReset]
  generalize send idxGoIdle 0 .r1 false (initIdled s) = t at ht
  dsimp only
  split
  · exact initOutcome_initClassify ht
  · exact initOutcome_abort _ ht

/-- Settles O44: INIT's start and a round of its loop, each over the steps that follow it. -/
theorem initOutcomes : Obligations.InitOutcomes := by
  rintro s t (h | ⟨hv, habort, hm, rfl⟩)
  · obtain ⟨-, h⟩ := whenLaunched_next h
    injection h with h
    exact h ▸ initOutcome_initStart s
  · exact initOutcome_initLoopRound ⟨hm, habort, rfl, rfl⟩ hv

end Sys2Proof.Machine
end

section
/-! The negotiation statements, third part: INIT against a version-2 card that answers each command at its first poll
(R190, R194, R196, R199, R202, R203). -/

namespace Sys2Proof.Machine

/-! ### The steps that read a response's tail -/

/-- A value's four bytes, most-significant first, are the value (R65). -/
theorem be4_bytes_append (v : Word) :
    v.extractLsb' 24 8 ++ v.extractLsb' 16 8 ++ v.extractLsb' 8 8 ++ v.extractLsb' 0 8 = v := by
  apply BitVec.eq_of_getLsbD_eq
  intro i hi
  simp only [BitVec.getLsbD_append, BitVec.getLsbD_extractLsb']
  grind

/-- A SEND whose R1 is the first byte polled leaves the value of its four tail bytes (R153). -/
theorem respPayload_of_answered {shape : Shape} (hshape : shape = .r3 ∨ shape = .r7) (idx : BitVec 6) (arg : Word)
    (keep : Bool) {s : State} {r1 : Byte} {v : Word} {rest : List Byte} (hr1 : r1 ≠ idleByte)
    (hcard : s.card = frameReplies (r1 :: be4 v) ++ rest) : (send idx arg shape keep s).respPayload = v := by
  have h6 : reply s 6 = r1 := reply_of_card (a := List.replicate 6 idleByte) hcard
  have htail : reply s 7 = v.extractLsb' 24 8 ∧ reply s 8 = v.extractLsb' 16 8 ∧ reply s 9 = v.extractLsb' 8 8 ∧
      reply s 10 = v.extractLsb' 0 8 := by
    simp [reply, hcard, frameReplies, be4]
  obtain ⟨h7, h8, h9, h10⟩ := htail
  have hk : NcrEnds 1 s := pollEnds_one (by decide) (by simpa [h6, acceptByte] using hr1)
  have htaken : reply s (5 + 1) ≠ idleByte := by rwa [h6]
  rw [send_of_ncrEnds hk idx arg shape keep (by rcases hshape with rfl | rfl <;> decide),
    afterSend_respPayload_of_taken hshape (.inl htaken), h7, h8, h9, h10, be4_bytes_append]

/-- Steps 2 to 4 on a version-2 card that echoes the check pattern (R194 to R196). -/
theorem initClassify_version2 {s : State} {rest : List Byte}
    (hcard : s.card = frameReplies (0x01 :: be4 ifCondArg) ++ rest) :
    ∃ u, Answered s u 0x01 rest ∧
      initClassify s = initLoopRound (initFastClock { u with version := .v2, initArg := hcsArg }) := by
  have ha := answered_send (shape := .r7) (by decide) idxIfCond ifCondArg false (by decide) rfl hcard
  have hecho := respPayload_of_answered (.inr rfl) idxIfCond ifCondArg false (by decide) hcard
  refine ⟨_, ha, ?_⟩
  have hclass : classifyR1 0x01 = some .v2 := by decide
  have hok : echoOk ifCondArg = true := by decide
  unfold initClassify
  simp only [ha.lastR1, hclass]
  simp [initEcho, hecho, hok]

/-- Step 6 on a version-2 card that is ready (R199). -/
theorem initOcr_version2 {s : State} {ocr : Word} {rest : List Byte} (hv : s.version = .v2)
    (hcard : s.card = frameReplies (0x00 :: be4 ocr) ++ rest) :
    ∃ u, Answered s u 0x00 rest ∧
      initOcr s = initBlocklen { u with capacity := if ocr.getLsbD 30 then .hc else .sc } := by
  have ha := answered_send (shape := .r3) (by decide) idxReadOcr 0 false (by decide) rfl hcard
  have hocr := respPayload_of_answered (.inl rfl) idxReadOcr 0 false (by decide) hcard
  refine ⟨_, ha, ?_⟩
  unfold initOcr
  simp only [hv, ha.lastR1, hocr, if_true]
  rfl

/-! ### RECOVER on the card's own record -/

theorem tagMatches_iff (s : State) : tagMatches s = true ↔ (recordOf s.cfg s.nv).take 5 = idTag s.cid := by
  simp [tagMatches]

/-- RECOVER on a record whose tag is the card's writes nothing to the NV store (R303). -/
theorem recover_nv_of_tagMatches {s : State} (h : tagMatches s = true) : (recover s).nv = s.nv := by
  have hread : (nvReadFrom 0 recordBytes s).1 = recordOf s.cfg s.nv := by
    rw [nvReadFrom_eq, recordOf, List.range_eq_range']
  unfold recover
  dsimp only
  rw [hread, if_pos ((tagMatches_iff s).1 h)]
  simp only [recoverMatch, nvReadFrom_eq]

/-- The record that PERSIST writes has the card's tag, and its groups resolve to the cursors written (R300, R305). -/
theorem resolve_recordImage (cid : Descriptor) (rd wr : Word) :
    (recordImage (idTag cid) rd wr).take 5 = idTag cid ∧ resolveRead (recordImage (idTag cid) rd wr) = (rd, true) ∧
      resolveWrite (recordImage (idTag cid) rd wr) = (wr, true) := by
  obtain ⟨⟨hrd1, hrd2⟩, hwr1, hwr2⟩ := recordImage_holdsPairs cid rd wr
  exact ⟨rfl, resolve_of_value_eq hrd1.copyAt_eq (congrArg Copy.value hrd2.copyAt_eq),
    resolve_of_value_eq hwr1.copyAt_eq (congrArg Copy.value hwr2.copyAt_eq)⟩

/-! ### INIT on a version-2 card -/

/-- The whole of INIT on a version-2 card, up to RECOVER (R190, R194, R199, R202): `u`, `v` and `w` are what the
commands leave up to the clock switch, up to READ_OCR and up to the last descriptor. -/
theorem initStart_version2 {s : State} {ocr : Word} {cid csd : Descriptor} {crcs : BitVec 32} {rest : List Byte}
    (hcard : s.card = version2Replies ocr cid csd crcs ++ rest) :
    ∃ u v w, BusOnly (initIdled s) u ∧ BusOnly (initFastClock { u with version := .v2, initArg := hcsArg }) v ∧
      BusOnly { v with capacity := if ocr.getLsbD 30 then .hc else .sc } w ∧ w.card = rest ∧ w.sel = false ∧
      w.flags = { Flags.zero with rdCrcOk := crcs.extractLsb' 0 16 == crc16 csd.toList } ∧
      initStart s = initRecover { w with cid := cid, cidWritten := true, csd := csd, csdWritten := true } := by
  simp only [version2Replies, List.append_assoc] at hcard
  obtain ⟨t₁, h₁, e₁⟩ := initStart_answered hcard
  obtain ⟨t₂, h₂, e₂⟩ := initClassify_version2 h₁.card
  have hidle := h₁.trans h₂
  obtain ⟨t₃, h₃, e₃⟩ := initLoopRound_answered
    (s := initFastClock { t₂ with version := .v2, initArg := hcsArg }) (by decide) h₂.card
  obtain ⟨t₄, h₄, e₄⟩ := initOcr_version2 h₃.bus.version h₃.card
  have hready := h₃.trans h₄
  obtain ⟨t₅, h₅, e₅⟩ := initBlocklen_answered
    (s := { t₄ with capacity := if ocr.getLsbD 30 then .hc else .sc }) h₄.card
  obtain ⟨w, hw, e₆⟩ := initDescriptors_answered h₅.card
  refine ⟨t₂, t₄, w, hidle.bus, hready.bus, h₅.bus.trans hw.bus, hw.card, hw.sel, ?_, ?_⟩
  · have hflags : (initFastClock { t₂ with version := .v2, initArg := hcsArg }).flags = t₂.flags := rfl
    rw [hw.flags, h₅.flags, pair16_extract]
    dsimp only
    rw [hready.flags, hflags, hidle.flags]
    rfl
  · rw [e₁, e₂, e₃, e₄, e₅, e₆]

/-- Steps 9 and 10 on a version-2 card whose cursors are 0 (R202, R203): the cursors become the record's where the tag
is the card's, and stay 0 where it is not. -/
theorem initRecover_version2 {s : State} {f : Flags} (hf : s.flags = f) (hv : s.version = .v2) (hrd : s.rdCursor = 0)
    (hwr : s.wrCursor = 0) :
    ∃ rd wr c m es,
      ((recordOf s.cfg s.nv).take 5 = idTag s.cid →
        rd = clamp (Config.csdPages s.csd) (resolveRead (recordOf s.cfg s.nv)).1 ∧
          wr = clamp (Config.csdPages s.csd) (resolveWrite (recordOf s.cfg s.nv)).1 ∧ m = s.nv) ∧
      ((recordOf s.cfg s.nv).take 5 ≠ idTag s.cid → rd = 0 ∧ wr = 0) ∧
      initRecover s = returnWord 0x0001 { s with
        totalPages := Config.csdPages s.csd, rdCursor := rd, wrCursor := wr
        flags := { f with
          idMismatch := !tagMatches s
          recordCorrupt := tagMatches s &&
            !((resolveRead (recordOf s.cfg s.nv)).2 && (resolveWrite (recordOf s.cfg s.nv)).2) }
        crc7 := c, nv := m, events := es } := by
  subst hf
  have hcount : initPageCount s = { s with totalPages := Config.csdPages s.csd } := by
    simp [initPageCount, hv]
  have hkeep := recover_nv_of_tagMatches (s := { s with totalPages := Config.csdPages s.csd })
  unfold initRecover
  rw [hcount, recover_eq { s with totalPages := Config.csdPages s.csd }]
  refine ⟨_, _, _, _, _, fun hown => ?own, fun hforeign => ?foreign, rfl⟩
  case own =>
    have htag := (tagMatches_iff { s with totalPages := Config.csdPages s.csd }).2 hown
    exact ⟨if_pos htag, if_pos htag, hkeep htag⟩
  case foreign =>
    have htag := mt (tagMatches_iff { s with totalPages := Config.csdPages s.csd }).1 hforeign
    exact ⟨(if_neg htag).trans hrd, (if_neg htag).trans hwr⟩

/-- Settles O42: the registers that INIT's steps leave, and RECOVER's, whose cursors the record gives (R303 to R308). -/
theorem initSucceedsOnVersion2 : Obligations.InitSucceedsOnVersion2 := by
  intro s ocr cid csd crcs rest hl hcard
  obtain ⟨u, v, w, ⟨x, rfl⟩, ⟨y, rfl⟩, ⟨z, rfl⟩, hrest, hsel, hflags, hstart⟩ := initStart_version2 hcard
  obtain ⟨rd, wr, c, m, es, hown, hforeign, hend⟩ := initRecover_version2 (s := { State.withBus
    { (initFastClock { (initIdled s).withBus x with version := .v2, initArg := hcsArg }).withBus y with
      capacity := if ocr.getLsbD 30 then .hc else .sc } z with
    cid := cid, cidWritten := true, csd := csd, csdWritten := true }) hflags rfl rfl rfl
  have hresolved : (recordOf s.cfg s.nv).take 5 = idTag cid →
      rd = clamp (Config.csdPages csd) (resolveRead (recordOf s.cfg s.nv)).1 ∧
        wr = clamp (Config.csdPages csd) (resolveWrite (recordOf s.cfg s.nv)).1 ∧ m = s.nv := hown
  have himage (rd' wr' : Word) (h : recordOf s.cfg s.nv = recordImage (idTag cid) rd' wr') :
      rd = clamp (Config.csdPages csd) rd' ∧ wr = clamp (Config.csdPages csd) wr' ∧ m = s.nv := by
    obtain ⟨htag, hread, hwrite⟩ := resolve_recordImage cid rd' wr'
    rw [h, hread, hwrite] at hresolved
    exact hresolved htag
  rw [exec_init_of_launched hl, hstart, hend]
  exact ⟨_, rfl, rfl, rfl, rfl, rfl, rfl, rfl, rfl, rfl, hsel, rfl, rfl, rfl, hrest, rfl, himage, hresolved, hforeign⟩

end Sys2Proof.Machine
end

section
/-! The block-framing statements (spec 43_block_framing.md): the bytes of an open page (R232, R237), the page that a READ or
a WRITE opens (R230, R231, R236) and the one it ends (R233 to R235, R238). -/

namespace Sys2Proof.Machine

/-! ### READ and WRITE from what their procedures do -/

/-- READ from its parts: the open write completed, a page opened where none is open, one byte taken (R268). -/
theorem exec_read_of_parts {s u t : State} {b : Byte} (hs : Usable s)
    (hcomplete : (if s.mode = .midWrite then forceComplete s else .ok s) = .ok u)
    (hstep : readStep (if u.mode = .idle then readOpenPage u else u) = .ok (b, t)) :
    exec .read s = .next (returnWord (b.setWidth 16) t) := by
  have hbody : readBody s = .ok (returnWord (b.setWidth 16) t) := by simp only [readBody, hcomplete, hstep]
  exact (whenUsable_of_usable hs _).trans (congrArg settle hbody)

theorem exec_read_of_midRead {s t : State} {b : Byte} (hs : Usable s) (hm : s.mode = .midRead)
    (hstep : readStep s = .ok (b, t)) : exec .read s = .next (returnWord (b.setWidth 16) t) :=
  exec_read_of_parts (u := s) hs (by simp [hm]) (by simpa [hm] using hstep)

theorem exec_read_of_idle {s t : State} {b : Byte} (hs : Usable s) (hm : s.mode = .idle)
    (hstep : readStep (readOpenPage s) = .ok (b, t)) : exec .read s = .next (returnWord (b.setWidth 16) t) :=
  exec_read_of_parts (u := s) hs (by simp [hm]) (by simpa [hm] using hstep)

/-- WRITE from its parts: the open read completed, a page opened where none is open, one byte sent (R269). -/
theorem exec_write_of_parts {s u t : State} {v : Byte} (hs : Usable s)
    (hcomplete : (if s.mode = .midRead then forceComplete s else .ok s) = .ok u)
    (hstep : writeStep v (if u.mode = .idle then writeOpenPage u else u) = .ok t) :
    exec (.write v) s = .next (returnWord 0x0000 t) := by
  have hbody : writeBody v s = .ok (returnWord 0x0000 t) := by simp only [writeBody, hcomplete, hstep]
  exact (whenUsable_of_usable hs _).trans (congrArg settle hbody)

theorem exec_write_of_midWrite {s t : State} {v : Byte} (hs : Usable s) (hm : s.mode = .midWrite)
    (hstep : writeStep v s = .ok t) : exec (.write v) s = .next (returnWord 0x0000 t) :=
  exec_write_of_parts (u := s) hs (by simp [hm]) (by simpa [hm] using hstep)

theorem exec_write_of_idle {s t : State} {v : Byte} (hs : Usable s) (hm : s.mode = .idle)
    (hstep : writeStep v (writeOpenPage s) = .ok t) : exec (.write v) s = .next (returnWord 0x0000 t) :=
  exec_write_of_parts (u := s) hs (by simp [hm]) (by simpa [hm] using hstep)

/-! ### The page boundary -/

/-- The byte at OFFSET 511 is the last of its page (R262, R264). -/
theorem offset_last {o : BitVec 10} (h : o = 511) : (o + 1).toNat = pageBytes := by
  subst h
  rfl

/-- The last byte of a read page: the page's end is the same whatever OFFSET counted (R262, R263). -/
theorem readStep_last_spec {s : State} (hc : s.cidWritten = true) (ho : s.offset = 511) :
    ∃ m, PollEnds readyByte busyPolls (fun n => reply s (4 + n)) m ∧
      readStep s = .ok (reply s 0, afterReadEnd m (afterReceive 1 s)) := by
  obtain ⟨m, hm, hend⟩ := readPageEnd_spec (s := { afterReceive 1 s with offset := s.offset + 1 }) hc
  have hreply : (fun n => reply s (4 + n)) = fun n => reply (afterReceive 1 s) (3 + n) := by
    funext n
    rw [reply_afterReceive, ← Nat.add_assoc]
  exact ⟨m, hreply ▸ hm, readStep_last (offset_last ho) hend⟩

/-- The last byte of a write page: the page's end is the same whatever OFFSET counted (R264, R265). -/
theorem writeStep_last_spec {s : State} (v : Byte) (hc : s.cidWritten = true) (ho : s.offset = 511) :
    writeStep v s = .ok (afterWriteEnd (afterTransmit [v] s)) :=
  (writeStep_last v (offset_last ho)).trans
    (writePageEnd_spec (s := { afterTransmit [v] s with offset := s.offset + 1 }) hc)

/-! ### A byte inside an open page -/

/-- Settles O13: one payload byte received, short of the page boundary. -/
theorem readInsidePage : Obligations.ReadInsidePage := by
  intro s hs hm ho
  exact exec_read_of_midRead hs hm (readStep_inside (offset_inside ho))

/-- Settles O17: one payload byte sent, short of the page boundary. -/
theorem writeInsidePage : Obligations.WriteInsidePage := by
  intro s v hs hm ho
  exact exec_write_of_midWrite hs hm (writeStep_inside v (offset_inside ho))

/-! ### The byte that opens a page -/

/-- Settles O14: the page opens at OFFSET 0, so its first byte lies inside it. -/
theorem readOpensPage : Obligations.ReadOpensPage := by
  intro s hs hm
  obtain ⟨k, j, hk, hj, hopen⟩ := readOpenPage_spec s
  have hfirst : readStep (afterReadOpenPage k j s) =
      .ok (reply s (6 + k + j), { afterReceive 1 (afterReadOpenPage k j s) with offset := 1 }) := by
    have hbyte := reply_afterReadOpenPage k j 0 s
    exact (readStep_inside (s := afterReadOpenPage k j s) (offset_inside (o := 0) (by decide))).trans
      (by rw [hbyte]; rfl)
  exact ⟨k, j, hk, hj, exec_read_of_idle hs hm (hopen ▸ hfirst)⟩

/-- Settles O18: the page opens at OFFSET 0, so its first byte lies inside it. -/
theorem writeOpensPage : Obligations.WriteOpensPage := by
  intro s v hs hm
  obtain ⟨k, hk, hopen⟩ := writeOpenPage_spec s
  have hfirst : writeStep v (afterWriteOpenPage k s) =
      .ok { afterTransmit [v] (afterWriteOpenPage k s) with offset := 1 } :=
    writeStep_inside (s := afterWriteOpenPage k s) v (offset_inside (o := 0) (by decide))
  exact ⟨k, hk, exec_write_of_idle hs hm (hopen ▸ hfirst)⟩

/-! ### The byte that ends a page -/

/-- Settles O15: the last payload byte received, then the page's end. -/
theorem readLastByte : Obligations.ReadLastByte := by
  intro s hs hm ho
  obtain ⟨-, -, hwritten⟩ := id hs
  obtain ⟨m, hpoll, hstep⟩ := readStep_last_spec hwritten ho
  exact ⟨m, hpoll, exec_read_of_midRead hs hm hstep⟩

/-- Settles O19: the last payload byte sent, then the page's end, which the data response decides. -/
theorem writeLastByte : Obligations.WriteLastByte := by
  intro s v hs hm ho
  obtain ⟨-, -, hwritten⟩ := id hs
  exact exec_write_of_midWrite hs hm (writeStep_last_spec v hwritten ho)

end Sys2Proof.Machine
end

section
/-! The streaming statements (spec 44_streaming.md): the cursor advance (R260), the operations that end an open page of the
other kind before their own work (R266, R268, R269, R272, R273), and the page reopened after a rejected one (R265, R271).

An operation in an open page is the same operation in the state that FORCE_COMPLETE leaves, where no page is open. -/

namespace Sys2Proof.Machine

/-! ### The cursor advance -/

/-- Below the page count the sum does not leave the word (R260). -/
theorem advance_toNat_of_below {total c : Word} (h : c.toNat + 1 < total.toNat) :
    (advance total c).toNat = c.toNat + 1 := by
  have hstep : advance total c = c + 1 := if_neg (by omega)
  have hbound := total.isLt
  rw [hstep]
  bv_omega

/-- The comparison is on natural numbers, so the largest cursor wraps too (R260). -/
theorem advance_of_end {total c : Word} (h : total.toNat ≤ c.toNat + 1) : advance total c = 0 := if_pos h

theorem advance_lt {total : Word} (h : 0 < total.toNat) (c : Word) : (advance total c).toNat < total.toNat := by
  have hne : total ≠ 0 := by rintro rfl; exact absurd h (Nat.lt_irrefl 0)
  simpa only [InRange, hne, if_false] using inRange_advance total c

/-- Settles O30: the two branches of the advance, and its range. -/
theorem cursorAdvance : Obligations.CursorAdvance :=
  fun _ c => ⟨advance_toNat_of_below, advance_of_end, fun h => advance_lt h c⟩

/-! ### A completed page -/

/-- What keeps the card and closes the page keeps a usable state usable (R42, R43). -/
theorem Kept.usable {s t : State} (h : Kept s t) (hclosed : PageClosed t) (hs : Usable s) : Usable t := by
  obtain ⟨⟨hlaunch, hseq⟩, hunset, hwritten⟩ := hs
  obtain ⟨-, hversion, -, -, -, hreserved, habort⟩ := (launchFault_none_iff s).1 hlaunch
  obtain ⟨kversion, -, -, -, -, -, kwritten, -⟩ := h.card
  obtain ⟨hmode, hoffset⟩ := hclosed
  have hready := h.seq hseq
  refine ⟨⟨(launchFault_none_iff t).2 ⟨?_, ?_, ?_, fun hopen => absurd hmode hopen, ?_, ?_, ?_⟩, hready⟩, ?_, ?_⟩
  · simp [hmode]
  · rwa [kversion]
  · simp [hoffset]
  · simp [hready]
  · rwa [h.reservedBits]
  · rwa [h.abortCode]
  · rwa [kversion]
  · rwa [kwritten]

/-- FORCE_COMPLETE ended the page open in `s` and left `u` (R266). -/
structure Completed (s u : State) : Prop where
  force : forceComplete s = .ok u
  closed : PageClosed u

theorem completed_pad {s : State} (hs : Usable s) (hm : s.mode = .midWrite) (ho : s.offset.toNat < 512) :
    Completed s (afterWritePad s) := by
  obtain ⟨-, -, hwritten⟩ := hs
  exact ⟨forceComplete_pad hm ho hwritten, closed_afterWriteEnd _⟩

theorem completed_discard {s : State} (hs : Usable s) (hm : s.mode = .midRead) (ho : s.offset.toNat < 512) :
    ∃ m, PollEnds readyByte busyPolls (fun n => reply s (512 - s.offset.toNat + 3 + n)) m ∧
      Completed s (afterReadDiscard m s) := by
  obtain ⟨-, -, hwritten⟩ := hs
  obtain ⟨m, hpoll, hforce⟩ := forceComplete_discard hm ho hwritten
  exact ⟨m, hpoll, hforce, closed_afterReadEnd m _⟩

theorem Completed.usable {s u : State} (h : Completed s u) (hs : Usable s) : Usable u :=
  (kept_forceComplete h.force).usable h.closed hs

theorem Completed.cid {s u : State} (h : Completed s u) : u.cid = s.cid := by
  obtain ⟨-, -, -, -, hcid, -⟩ := (kept_forceComplete h.force).card
  exact hcid

/-- A completed page needs no more completing (R266). -/
theorem Completed.again {s u : State} (h : Completed s u) : forceComplete u = .ok u := forceComplete_idle h.closed.1

/-- Two usable states whose bodies end alike. -/
theorem whenUsable_settle_congr {s u : State} {r r' : Except Fault State} (hs : Usable s) (hu : Usable u) (h : r = r') :
    whenUsable s (settle r) = whenUsable u (settle r') := by
  rw [whenUsable_of_usable hs, whenUsable_of_usable hu, h]

theorem Completed.exec_read {s u : State} (h : Completed s u) (hs : Usable s) (hm : s.mode = .midWrite) :
    exec .read s = exec .read u :=
  whenUsable_settle_congr hs (h.usable hs) (by
    simp only [readBody, hm, h.force, h.closed.1, if_true, reduceCtorEq, if_false])

theorem Completed.exec_write {s u : State} (h : Completed s u) (hs : Usable s) (hm : s.mode = .midRead) (v : Byte) :
    exec (.write v) s = exec (.write v) u :=
  whenUsable_settle_congr hs (h.usable hs) (by
    simp only [writeBody, hm, h.force, h.closed.1, if_true, reduceCtorEq, if_false])

theorem Completed.exec_erase {s u : State} (h : Completed s u) (hs : Usable s) : exec .erase s = exec .erase u :=
  whenUsable_settle_congr hs (h.usable hs) (by simp only [eraseBody, h.force, h.again])

theorem Completed.exec_getStatus {s u : State} (h : Completed s u) (hs : Usable s) :
    exec .getStatus s = exec .getStatus u :=
  whenUsable_settle_congr hs (h.usable hs) (by simp only [getStatusBody, h.force, h.again])

/-! ### READ and WRITE in an open page of the other kind -/

/-- Settles O16: after the padded page READ opens a page as it does with none open. -/
theorem readAfterOpenWrite : Obligations.ReadAfterOpenWrite := by
  intro s hs hm ho
  have hdone := completed_pad hs hm ho
  obtain ⟨k, j, hk, hj, hread⟩ := readOpensPage _ (hdone.usable hs) hdone.closed.1
  exact ⟨k, j, hk, hj, (hdone.exec_read hs hm).trans hread⟩

/-- Settles O20: after the discarded page WRITE opens a page as it does with none open. -/
theorem writeAfterOpenRead : Obligations.WriteAfterOpenRead := by
  intro s v hs hm ho
  obtain ⟨m, hpoll, hdone⟩ := completed_discard hs hm ho
  obtain ⟨k, hk, hwrite⟩ := writeOpensPage _ v (hdone.usable hs) hdone.closed.1
  exact ⟨m, k, hpoll, hk, (hdone.exec_write hs hm v).trans hwrite⟩

/-! ### ERASE -/

/-- Settles O21: there is nothing to complete, and PERSIST completes since CID has been written. -/
theorem eraseWithNoPageOpen : Obligations.EraseWithNoPageOpen := by
  intro s hs hm
  obtain ⟨-, -, hwritten⟩ := id hs
  have hpersist := persist_ok (s := { s with rdCursor := s.wrCursor }) hwritten
  have hbody : eraseBody s =
      .ok (returnWord 0x0000 (persistWith (idTag s.cid) { s with rdCursor := s.wrCursor })) := by
    simp only [eraseBody, forceComplete_idle hm, hpersist]
  exact (whenUsable_of_usable hs _).trans (congrArg settle hbody)

/-- ERASE after the open page is completed, which leaves CID (R43, R272). -/
theorem Completed.erase {s u : State} (h : Completed s u) (hs : Usable s) :
    exec .erase s = .next (returnWord 0x0000 (persistWith (idTag s.cid) { u with rdCursor := u.wrCursor })) := by
  rw [h.exec_erase hs, eraseWithNoPageOpen u (h.usable hs) h.closed.1, h.cid]

/-- A read page's end leaves the write cursor (R263). -/
theorem afterReadDiscard_wrCursor (m : Nat) (s : State) : (afterReadDiscard m s).wrCursor = s.wrCursor := by
  unfold afterReadDiscard afterReadEnd
  rw [persistWith_eq]
  rfl

/-- Settles O22: ERASE with no page open, from what completing either kind of page leaves. -/
theorem eraseWithPageOpen : Obligations.EraseWithPageOpen := by
  intro s hs ho
  refine ⟨fun hm => (completed_pad hs hm ho).erase hs, fun hm => ?_⟩
  obtain ⟨m, hpoll, hdone⟩ := completed_discard hs hm ho
  exact ⟨m, hpoll, afterReadDiscard_wrCursor m s ▸ hdone.erase hs⟩

/-! ### GET_STATUS -/

/-- GET_STATUS after the open page is completed (R273). -/
theorem Completed.getStatus {s u : State} (h : Completed s u) (hs : Usable s) :
    ∃ k, NcrEnds k u ∧
      exec .getStatus s = .next (returnWord ((afterSend 13 0 .r2 false k u).lastR1 ++ (afterSend 13 0 .r2 false k u).respB2)
        (afterSend 13 0 .r2 false k u)) := by
  rw [h.exec_getStatus hs]
  exact getStatusWithNoPageOpen u (h.usable hs) h.closed.1

/-- Settles O24: GET_STATUS with no page open, from what completing either kind of page leaves. -/
theorem getStatusWithPageOpen : Obligations.GetStatusWithPageOpen := by
  intro s hs ho
  refine ⟨fun hm => (completed_pad hs hm ho).getStatus hs, fun hm => ?_⟩
  obtain ⟨m, hpoll, hdone⟩ := completed_discard hs hm ho
  obtain ⟨k, hk, hstatus⟩ := hdone.getStatus hs
  exact ⟨m, k, hpoll, hk, hstatus⟩

/-! ### A rejected page -/

/-- A rejected page's end neither advances nor persists (R265). -/
theorem afterWriteEnd_rejected {s : State} (h : dataAccepted (reply s 2) = false) :
    afterWriteEnd s = { afterWriteClose s with mode := .idle, offset := 0 } := by
  simp only [afterWriteEnd, h, Bool.false_eq_true, if_false]

/-- FLAGS.WR_REJECT records the data response (R238). -/
theorem afterWriteClose_wrReject (s : State) : (afterWriteClose s).flags.wrReject = !dataAccepted (reply s 2) := rfl

/-- The last WRITE of a page keeps the card, whatever the data response (R43, R265). -/
theorem kept_lastWrite (v : Byte) (s : State) : Kept s (returnWord 0x0000 (afterWriteEnd (afterTransmit [v] s))) :=
  ((busOnly_afterTransmit [v] s).kept.trans (kept_afterWriteEnd _)).trans (kept_returnWord _ _)

/-- Settles O26: the rejected page's end leaves the write cursor, and a WRITE with no page open opens the page there. -/
theorem rejectedPageIsReopened : Obligations.RejectedPageIsReopened := by
  intro s v w hs hm ho hrejected
  have hresponse : dataAccepted (reply (afterTransmit [v] s) 2) = false := by
    rw [reply_afterTransmit]
    exact hrejected
  have hend := afterWriteEnd_rejected hresponse
  have hclosed : PageClosed (returnWord 0x0000 (afterWriteEnd (afterTransmit [v] s))) := closed_afterWriteEnd _
  have husable := (kept_lastWrite v s).usable hclosed hs
  obtain ⟨k, hk, hreopen⟩ := writeOpensPage _ w husable hclosed.1
  refine ⟨_, writeLastByte s v hs hm ho, ?_⟩
  rw [hend] at hk hreopen ⊢
  refine ⟨rfl, rfl, rfl, rfl, ?_, k, _, hk, hreopen, rfl, rfl, rfl, rfl⟩
  exact (afterWriteClose_wrReject _).trans (by rw [hresponse]; rfl)

end Sys2Proof.Machine
end

section
/-! The position record statements (spec 45_position_record.md): what PERSIST leaves in the store (R300 to R302, R309),
how RESOLVE chooses (R304, R305), and what RECOVER makes of the card's own record and of another card's (R303, R306 to
R311). -/

namespace Sys2Proof.Machine

/-! ### The record after an image is written -/

/-- A record byte reads as the image's where it is written and as before where it is not. -/
theorem recordOf_imageStore {p : Params} {m : Memory} (hm : Memory.wf m = true) {order : List Nat}
    (horder : ∀ j ∈ order, j < 32) (img : List Byte) :
    recordOf p (imageStore p order img m) =
      (List.range recordBytes).map fun i => if i ∈ order then img.getD i 0 else (recordOf p m).getD i 0 := by
  apply List.map_congr_left
  intro i hi
  rw [List.mem_range] at hi
  split
  · next hin => exact read_imageStore_same hm hin horder
  · next hout =>
    rw [recordOf_getD p m hi]
    refine read_imageStore_other fun j hj heq => hout ?_
    exact nvAddr_inj (Nat.lt_trans hi (by decide)) (horder j hj) heq ▸ hj

/-- A list's bytes, read one by one at its places. -/
theorem map_getD_range (img : List Byte) : ((List.range img.length).map fun i => img.getD i 0) = img := by
  apply List.ext_getElem
  · simp
  · intro i _ hi
    simp [hi]

theorem recordImage_length (cid : Descriptor) (rd wr : Word) :
    (recordImage (idTag cid) rd wr).length = recordBytes := rfl

/-- A whole image written in PERSIST_ORDER is the record (R309). -/
theorem recordOf_persisted {p : Params} {m : Memory} (hm : Memory.wf m = true) {img : List Byte}
    (himg : img.length = recordBytes) : recordOf p (imageStore p persistOrder img m) = img := by
  calc recordOf p (imageStore p persistOrder img m)
      = (List.range recordBytes).map fun i => img.getD i 0 := by
        rw [recordOf_imageStore hm (by decide)]
        exact List.map_congr_left fun i hi => if_pos (mem_persistOrder (List.mem_range.1 hi))
    _ = img := himg ▸ map_getD_range img

/-- PERSIST leaves its image as the record (R309). -/
theorem recordOf_persistWith {s : State} (hwf : Memory.wf s.nv = true) (cid : Descriptor) :
    recordOf s.cfg (persistWith (idTag cid) s).nv = recordImage (idTag cid) s.rdCursor s.wrCursor := by
  rw [persistWith_eq]
  dsimp only
  exact recordOf_persisted hwf (recordImage_length cid s.rdCursor s.wrCursor)

theorem imageEvents_length (p : Params) (order : List Nat) (img : List Byte) :
    (imageEvents p order img).length = order.length :=
  List.length_map _

/-- Writing the tag alone leaves the copies as they were (R303). -/
theorem recordOf_retagged {p : Params} {m : Memory} (hm : Memory.wf m = true) (cid : Descriptor) :
    recordOf p (imageStore p [0, 1, 2, 3, 4] (idTag cid) m) = idTag cid ++ (recordOf p m).drop 5 := by
  rw [recordOf_imageStore hm (by decide)]
  simp [recordOf, recordBytes, List.range_succ, idTag]

/-- PERSIST writes no address outside the record (R64). -/
theorem read_persisted_outside {p : Params} {a : Nat} (ha : ¬ InRecord p a) (img : List Byte) (m : Memory) :
    Memory.read (imageStore p persistOrder img m) a = Memory.read m a :=
  read_imageStore_other fun i hi heq => ha ⟨i, (by decide : ∀ j ∈ persistOrder, j < recordBytes) i hi, heq⟩

/-- Settles O32: PERSIST's store holds its image, whose bytes are those of its events. -/
theorem persistWritesTheRecord : Obligations.PersistWritesTheRecord := by
  intro s hc hwf
  refine ⟨_, persist_ok hc, ?_⟩
  rw [recordOf_persistWith hwf, persistWith_eq]
  dsimp only
  exact ⟨rfl, rfl, fun a ha => read_persisted_outside ha _ _, rfl⟩

/-! ### Stored copies -/

/-- A copy stored after other bytes: its value, and whether its checksum byte is that value's (R300, R304). -/
theorem copyAt_append (front : List Byte) (x : Byte) (v : Word) (rest : List Byte) :
    copyAt (front ++ (x :: le4 v) ++ rest) front.length = ⟨v, x == chkByte v⟩ := by
  have hbyte (k : Nat) : (front ++ (x :: le4 v) ++ rest).getD (front.length + k) 0 =
      ((x :: le4 v) ++ rest).getD k 0 := by
    rw [List.append_assoc, List.getD_append_right _ _ _ _ (Nat.le_add_right _ _), Nat.add_sub_cancel_left]
  have hvalue : (copyAt (front ++ (x :: le4 v) ++ rest) front.length).value = v :=
    copyAt_value fun k h0 hk => (hbyte k).trans (by
      have hpos : 1 ≤ k := Nat.pos_of_ne_zero h0
      interval_cases k <;> rfl)
  have hcheck : (front ++ (x :: le4 v) ++ rest).getD front.length 0 = x := hbyte 0
  calc copyAt (front ++ (x :: le4 v) ++ rest) front.length
      = ⟨(copyAt (front ++ (x :: le4 v) ++ rest) front.length).value,
          (front ++ (x :: le4 v) ++ rest).getD front.length 0 ==
            chkByte (copyAt (front ++ (x :: le4 v) ++ rest) front.length).value⟩ := rfl
    _ = ⟨v, x == chkByte v⟩ := by rw [hvalue, hcheck]

/-- RESOLVE with no valid copy (R305). -/
theorem resolve_of_invalid (v w : Word) : resolve ⟨v, false⟩ ⟨w, false⟩ = (0, false) := by
  simp [resolve]

/-- Settles O33: with a valid copy RESOLVE is `resolve_of_copy1_valid` or `resolve_of_copy2_valid`. -/
theorem resolveCases : Obligations.ResolveCases := by
  intro x y a b
  dsimp only
  have hcopy1 : copyAt ((x :: le4 a) ++ (y :: le4 b)) 0 = ⟨a, x == chkByte a⟩ := copyAt_append [] x a (y :: le4 b)
  have hcopy2 : copyAt ((x :: le4 a) ++ (y :: le4 b)) 5 = ⟨b, y == chkByte b⟩ := copyAt_append (x :: le4 a) y b []
  rw [hcopy1, hcopy2]
  have hvalid {z : Byte} {v : Word} (h : z = (crc7 (le4 v)).setWidth 8) : (z == chkByte v) = true := beq_iff_eq.2 h
  have hinvalid {z : Byte} {v : Word} (h : ¬ z = (crc7 (le4 v)).setWidth 8) : (z == chkByte v) = false :=
    beq_eq_false_iff_ne.2 h
  refine ⟨fun hx hy hab => ?_, fun hx hy hsucc => ?_, fun hx hy _ hsucc => ?_, fun hx hy => ?_, fun hx hy => ?_,
    fun hx hy => ?_⟩
  · rw [hvalid hx, resolve_of_value_eq rfl hab.symm]
  · rw [hvalid hx, hvalid hy, resolve_of_copy1_valid, if_pos ⟨rfl, hsucc⟩]
  · rw [hvalid hx, resolve_of_copy1_valid, if_neg fun h => hsucc h.2]
  · rw [hvalid hx, hinvalid hy, resolve_of_copy1_valid, if_neg fun h => Bool.false_ne_true h.1]
  · rw [hinvalid hx, hvalid hy, resolve_of_copy2_valid, if_neg fun h => Bool.false_ne_true h.1]
  · rw [hinvalid hx, hinvalid hy, resolve_of_invalid]

/-! ### RECOVER's two ways -/

/-- `s` after RECOVER has read the record's bytes in ascending order (R303). -/
def recordRead (s : State) : State :=
  { s with events := s.events ++ (List.range recordBytes).map fun i =>
      Event.nvRead (nvAddr s.cfg i) (Memory.read s.nv (nvAddr s.cfg i)) }

theorem nvReadFrom_record (s : State) : nvReadFrom 0 recordBytes s = (recordOf s.cfg s.nv, recordRead s) := by
  rw [nvReadFrom_eq, ← List.range_eq_range']
  rfl

theorem recordRead_events_length (s : State) : (recordRead s).events.length = s.events.length + recordBytes := by
  simp [recordRead]

/-- RECOVER where the record's tag is the card's (R303). -/
theorem recover_own {s : State} (h : (recordOf s.cfg s.nv).take 5 = idTag s.cid) :
    recover s = recoverMatch (recordOf s.cfg s.nv) (recordRead s) := by
  simp only [recover, nvReadFrom_record, h, if_true]

/-- RECOVER where the record's tag is another card's (R303, R311). -/
theorem recover_foreign {s : State} (h : (recordOf s.cfg s.nv).take 5 ≠ idTag s.cid) :
    recover s = recoverMismatch (idTag s.cid) (recordRead s) := by
  simp only [recover, nvReadFrom_record, h, if_false]

/-- The four copies of a record (R300). -/
theorem copies_of_record {rec : List Byte} {cid : Descriptor} {x1 x2 x3 x4 : Byte} {a b c d : Word}
    (h : rec = idTag cid ++ (x1 :: le4 a) ++ (x2 :: le4 b) ++ (x3 :: le4 c) ++ (x4 :: le4 d)) :
    copyAt rec 5 = ⟨a, x1 == chkByte a⟩ ∧ copyAt rec 10 = ⟨b, x2 == chkByte b⟩ ∧
      copyAt rec 15 = ⟨c, x3 == chkByte c⟩ ∧ copyAt rec 20 = ⟨d, x4 == chkByte d⟩ := by
  subst h
  exact ⟨copyAt_append (idTag cid) x1 a ((x2 :: le4 b) ++ (x3 :: le4 c) ++ (x4 :: le4 d)),
    copyAt_append (idTag cid ++ (x1 :: le4 a)) x2 b ((x3 :: le4 c) ++ (x4 :: le4 d)),
    copyAt_append (idTag cid ++ (x1 :: le4 a) ++ (x2 :: le4 b)) x3 c (x4 :: le4 d),
    copyAt_append (idTag cid ++ (x1 :: le4 a) ++ (x2 :: le4 b) ++ (x3 :: le4 c)) x4 d []⟩

/-- Settles O34: RECOVER resolves the record's four copies and clamps. -/
theorem recoverMatchingRecord : Obligations.RecoverMatchingRecord := by
  intro s x1 x2 x3 x4 a b c d hrec
  obtain ⟨hrd1, hrd2, hwr1, hwr2⟩ := copies_of_record hrec
  have hown : (recordOf s.cfg s.nv).take 5 = idTag s.cid := by rw [hrec]; rfl
  rw [recover_own hown]
  simp only [recoverMatch, resolveRead, resolveWrite, hrd1, hrd2, hwr1, hwr2]
  rfl

/-- Where the run's parameter says so, RECOVER persists another card's record anew, after 25 reads (R309, R311). -/
theorem recover_foreign_rewrite {s : State} (hwf : Memory.wf s.nv = true)
    (h : (recordOf s.cfg s.nv).take 5 ≠ idTag s.cid) (hcfg : s.cfg.writeCursorsOnMismatch = true) :
    recordOf s.cfg (recover s).nv = recordImage (idTag s.cid) s.rdCursor s.wrCursor ∧
      (recover s).events.length = s.events.length + 50 := by
  have hrun : recover s = persistWith (idTag s.cid)
      { recordRead s with flags := { s.flags with idMismatch := true, recordCorrupt := false } } := by
    rw [recover_foreign h]
    exact if_pos hcfg
  rw [hrun]
  refine ⟨recordOf_persistWith (s := { recordRead s with flags := _ }) hwf s.cid, ?_⟩
  simp only [persistWith_eq, List.length_append, imageEvents_length, recordRead_events_length]
  rfl

/-- By default RECOVER writes the tag over another card's, after 25 reads (R303). -/
theorem recover_foreign_retag {s : State} (hwf : Memory.wf s.nv = true)
    (h : (recordOf s.cfg s.nv).take 5 ≠ idTag s.cid) (hcfg : s.cfg.writeCursorsOnMismatch = false) :
    recordOf s.cfg (recover s).nv = idTag s.cid ++ (recordOf s.cfg s.nv).drop 5 ∧
      (recover s).events.length = s.events.length + 30 := by
  have hrun : recover s = nvWriteImage [0, 1, 2, 3, 4] (idTag s.cid)
      { recordRead s with flags := { s.flags with idMismatch := true, recordCorrupt := false } } := by
    rw [recover_foreign h]
    exact if_neg (ne_true_of_eq_false hcfg)
  rw [hrun, nvWriteImage_eq]
  refine ⟨recordOf_retagged hwf s.cid, ?_⟩
  simp only [List.length_append, imageEvents_length, recordRead_events_length]
  rfl

/-- Settles O35: the registers are `recover_eq`'s, the store and the trace depend on the run's parameter. -/
theorem recoverForeignRecord : Obligations.RecoverForeignRecord := by
  intro s hwf hforeign
  have htag : tagMatches s = false := by simpa [tagMatches] using hforeign
  refine ⟨?_, ?_, ?_, recover_foreign_retag hwf hforeign, recover_foreign_rewrite hwf hforeign⟩
  all_goals
    rw [recover_eq]
    simp [htag]

/-- Settles O36: the record found is PERSIST's image, which has the card's tag and resolves to the cursors written. -/
theorem persistThenRecover : Obligations.PersistThenRecover := by
  intro s t u hp hwf hnv hcfg htag
  obtain ⟨-, rfl⟩ := persist_cases hp
  have hrec : recordOf u.cfg u.nv = recordImage (idTag s.cid) s.rdCursor s.wrCursor := by
    rw [hnv, hcfg]
    exact recordOf_persistWith hwf s.cid
  obtain ⟨htake, hread, hwrite⟩ := resolve_recordImage s.cid s.rdCursor s.wrCursor
  have hown : (recordOf u.cfg u.nv).take 5 = idTag u.cid := by rw [hrec, htake, htag]
  rw [recover_own hown, hrec]
  simp only [recoverMatch, hread, hwrite]
  exact ⟨rfl, rfl, trivial, rfl, rfl⟩

end Sys2Proof.Machine
end

section
/-! The data operations and the NV store (R303, R362): none of their procedures reads it, so another store in its place
changes only what the store holds after. -/

namespace Sys2Proof.Machine

/-! ### Another store -/

/-- `s` with another NV store (R39). -/
def State.withStore (s : State) (m : Memory) : State := { s with nv := m }

/-- A procedure does not read the NV store: wherever it completes, it completes with any other store too, and leaves the
same state but for the store. -/
def IgnoresStore (f : State → Except Fault State) : Prop :=
  ∀ ⦃s t : State⦄, f s = .ok t → ∀ m, ∃ m', f (s.withStore m) = .ok (t.withStore m')

theorem ignoresStore_ok : IgnoresStore .ok := by
  intro s t h m
  injection h with h
  exact ⟨m, h ▸ rfl⟩

/-! ### The bus procedures -/

theorem send_withStore {shape : Shape} (hshape : shape ≠ .r1b) (idx : BitVec 6) (arg : Word) (keep : Bool) (s : State)
    (m : Memory) : send idx arg shape keep (s.withStore m) = (send idx arg shape keep s).withStore m := by
  obtain ⟨k, hk, h⟩ := send_spec idx arg shape keep s hshape
  obtain ⟨k', hk', h'⟩ := send_spec idx arg shape keep (s.withStore m) hshape
  obtain rfl : k' = k := PollEnds_unique hk' hk
  rw [h, h']
  rfl

theorem readOpenPage_withStore (s : State) (m : Memory) :
    readOpenPage (s.withStore m) = (readOpenPage s).withStore m := by
  obtain ⟨k, j, hk, hj, h⟩ := readOpenPage_spec s
  obtain ⟨k', j', hk', hj', h'⟩ := readOpenPage_spec (s.withStore m)
  obtain rfl : k' = k := PollEnds_unique hk' hk
  obtain rfl : j' = j := PollEnds_unique hj' hj
  rw [h, h']
  rfl

theorem writeOpenPage_withStore (s : State) (m : Memory) :
    writeOpenPage (s.withStore m) = (writeOpenPage s).withStore m := by
  obtain ⟨k, hk, h⟩ := writeOpenPage_spec s
  obtain ⟨k', hk', h'⟩ := writeOpenPage_spec (s.withStore m)
  obtain rfl : k' = k := PollEnds_unique hk' hk
  rw [h, h']
  rfl

theorem readBlockClose_withStore (s : State) (m : Memory) :
    readBlockClose (s.withStore m) = (readBlockClose s).withStore m := by
  obtain ⟨k, hk, h⟩ := readBlockClose_spec s
  obtain ⟨k', hk', h'⟩ := readBlockClose_spec (s.withStore m)
  obtain rfl : k' = k := PollEnds_unique hk' hk
  rw [h, h']
  rfl

theorem afterWriteClose_withStore (s : State) (m : Memory) :
    afterWriteClose (s.withStore m) = (afterWriteClose s).withStore m := rfl

/-- A procedure that ignores the store and runs only under a condition on MODE. -/
theorem IgnoresStore.onlyIf {f : State → Except Fault State} (h : IgnoresStore f) (mode : Mode) :
    IgnoresStore fun s => if s.mode = mode then f s else .ok s := by
  intro s t hs m
  dsimp only at hs ⊢
  by_cases hmode : s.mode = mode
  · rw [if_pos hmode] at hs
    rw [if_pos (show (s.withStore m).mode = mode from hmode)]
    exact h hs m
  · rw [if_neg hmode] at hs
    rw [if_neg (show ¬ (s.withStore m).mode = mode from hmode)]
    exact ignoresStore_ok hs m

/-- A bus procedure that runs only under a condition on MODE. -/
theorem onlyIf_withStore {f : State → State} (h : ∀ s m, f (s.withStore m) = (f s).withStore m) (mode : Mode)
    (s : State) (m : Memory) :
    (if (s.withStore m).mode = mode then f (s.withStore m) else s.withStore m) =
      (if s.mode = mode then f s else s).withStore m := by
  rw [h]
  exact (apply_ite (State.withStore · m) (s.mode = mode) (f s) s).symm

/-! ### The ends of a page -/

theorem persistWith_withStore (tag : List Byte) (s : State) (m : Memory) :
    persistWith tag (s.withStore m) = (persistWith tag s).withStore (persistWith tag (s.withStore m)).nv := by
  simp only [persistWith_eq]
  rfl

/-- PERSIST writes the record without reading the store (R309). -/
theorem persist_ignoresStore : IgnoresStore persist := by
  intro s t h m
  obtain ⟨hc, rfl⟩ := persist_cases h
  exact ⟨_, (persist_ok (s := s.withStore m) hc).trans (congrArg Except.ok (persistWith_withStore _ s m))⟩

theorem readPageEnd_ignoresStore : IgnoresStore readPageEnd := by
  intro s t h m
  unfold readPageEnd at h ⊢
  rw [readBlockClose_withStore]
  exact persist_ignoresStore h m

theorem writePageEnd_ignoresStore : IgnoresStore writePageEnd := by
  intro s t h m
  have hreply : reply (s.withStore m) 2 = reply s 2 := rfl
  unfold writePageEnd at h ⊢
  rw [writeBlockClose_eq] at h ⊢
  rw [hreply, afterWriteClose_withStore]
  dsimp only at h ⊢
  by_cases haccepted : dataAccepted (reply s 2) = true
  · rw [if_pos haccepted] at h ⊢
    exact persist_ignoresStore h m
  · rw [if_neg haccepted] at h ⊢
    exact ignoresStore_ok (s := { afterWriteClose s with mode := .idle, offset := 0 }) h m

/-! ### Steps -/

/-- READ_STEP at the page boundary takes its byte and ends the page (R262). -/
theorem readStep_boundary {s t : State} {b : Byte} (hend : (s.offset + 1).toNat = pageBytes)
    (h : readStep s = .ok (b, t)) :
    b = reply s 0 ∧ readPageEnd { afterReceive 1 s with offset := s.offset + 1 } = .ok t := by
  cases he : readPageEnd { afterReceive 1 s with offset := s.offset + 1 } with
  | ok u =>
    rw [readStep_last hend he] at h
    injection h with h
    injection h with hb ht
    exact ⟨hb.symm, by rw [ht]⟩
  | error f =>
    simp only [readStep, rxPayload_eq, show (afterReceive 1 s).offset = s.offset from rfl, hend, if_true, he,
      reduceCtorEq] at h

/-- READ_STEP takes the same byte with any store (R262, R263). -/
theorem readStep_withStore {s t : State} {b : Byte} (h : readStep s = .ok (b, t)) (m : Memory) :
    ∃ m', readStep (s.withStore m) = .ok (b, t.withStore m') := by
  by_cases hend : (s.offset + 1).toNat = pageBytes
  · obtain ⟨rfl, hpage⟩ := readStep_boundary hend h
    obtain ⟨m', hpage'⟩ := readPageEnd_ignoresStore hpage m
    exact ⟨m', readStep_last (s := s.withStore m) hend hpage'⟩
  · rw [readStep_inside hend] at h
    injection h with h
    injection h with hb ht
    exact ⟨m, (readStep_inside (s := s.withStore m) hend).trans (by rw [← hb, ← ht]; rfl)⟩

theorem writeStep_ignoresStore (v : Byte) : IgnoresStore (writeStep v) := by
  intro s t h m
  by_cases hend : (s.offset + 1).toNat = pageBytes
  · rw [writeStep_last v hend] at h
    rw [writeStep_last (s := s.withStore m) v hend]
    exact writePageEnd_ignoresStore h m
  · rw [writeStep_inside v hend] at h
    rw [writeStep_inside (s := s.withStore m) v hend]
    exact ignoresStore_ok (s := { afterTransmit [v] s with offset := s.offset + 1 }) h m

/-! ### FORCE_COMPLETE -/

theorem completeWrite_ignoresStore (n : Nat) : IgnoresStore (completeWrite n) := by
  induction n with
  | zero => exact ignoresStore_ok
  | succ n ih =>
    intro s t h m
    by_cases hm : s.mode = .midWrite
    · cases hw : writeStep 0x00 s with
      | ok u =>
        obtain ⟨m₁, hw'⟩ := writeStep_ignoresStore 0x00 hw m
        rw [completeWrite_succ hm hw] at h
        rw [completeWrite_succ (s := s.withStore m) hm hw']
        exact ih h m₁
      | error f => simp only [completeWrite, hm, if_true, hw, reduceCtorEq] at h
    · rw [completeWrite_done hm] at h
      rw [completeWrite_done (s := s.withStore m) hm]
      exact ignoresStore_ok h m

theorem completeRead_ignoresStore (n : Nat) : IgnoresStore (completeRead n) := by
  induction n with
  | zero => exact ignoresStore_ok
  | succ n ih =>
    intro s t h m
    by_cases hm : s.mode = .midRead
    · cases hr : readStep s with
      | ok u =>
        obtain ⟨m₁, hr'⟩ := readStep_withStore hr m
        rw [completeRead_succ hm hr] at h
        rw [completeRead_succ (s := s.withStore m) hm hr']
        exact ih h m₁
      | error f => simp only [completeRead, hm, if_true, hr, reduceCtorEq] at h
    · rw [completeRead_done hm] at h
      rw [completeRead_done (s := s.withStore m) hm]
      exact ignoresStore_ok h m

theorem forceComplete_ignoresStore : IgnoresStore forceComplete := by
  intro s t h m
  unfold forceComplete at h
  split at h
  · next u hu =>
    obtain ⟨m₁, hu'⟩ := completeWrite_ignoresStore _ hu m
    obtain ⟨m₂, ht'⟩ := completeRead_ignoresStore _ h m₁
    exact ⟨m₂, by simp only [forceComplete, hu', ht']⟩
  · cases h

/-! ### The data operations -/

theorem readBody_ignoresStore : IgnoresStore readBody := by
  intro s t h m
  obtain ⟨u, v, b, hu, hv, rfl⟩ := readBody_cases h
  obtain ⟨m₁, hu'⟩ := forceComplete_ignoresStore.onlyIf .midWrite hu m
  obtain ⟨m₂, hv'⟩ := readStep_withStore hv m₁
  rw [← onlyIf_withStore readOpenPage_withStore] at hv'
  exact ⟨m₂, by simp only [readBody, hu', hv']; rfl⟩

theorem writeBody_ignoresStore (d : Byte) : IgnoresStore (writeBody d) := by
  intro s t h m
  obtain ⟨u, v, hu, hv, rfl⟩ := writeBody_cases h
  obtain ⟨m₁, hu'⟩ := forceComplete_ignoresStore.onlyIf .midRead hu m
  obtain ⟨m₂, hv'⟩ := writeStep_ignoresStore d hv m₁
  rw [← onlyIf_withStore writeOpenPage_withStore] at hv'
  exact ⟨m₂, by simp only [writeBody, hu', hv']; rfl⟩

theorem eraseBody_ignoresStore : IgnoresStore eraseBody := by
  intro s t h m
  unfold eraseBody at h
  split at h
  · cases h
  · next u hu =>
    split at h
    · cases h
    · next v hv =>
      injection h with h
      obtain ⟨m₁, hu'⟩ := forceComplete_ignoresStore hu m
      obtain ⟨m₂, hv'⟩ := persist_ignoresStore hv m₁
      have hmoved : persist { u.withStore m₁ with rdCursor := (u.withStore m₁).wrCursor } = .ok (v.withStore m₂) :=
        hv'
      exact ⟨m₂, by simp only [eraseBody, hu', hmoved, ← h]; rfl⟩

theorem getStatusBody_ignoresStore : IgnoresStore getStatusBody := by
  intro s t h m
  unfold getStatusBody at h
  split at h
  · cases h
  · next u hu =>
    injection h with h
    obtain ⟨m₁, hu'⟩ := forceComplete_ignoresStore hu m
    exact ⟨m₁, by simp only [getStatusBody, hu', send_withStore (shape := .r2) (by decide), ← h]; rfl⟩

/-- The guards of the data operations do not read the store either (R12, R42, R336). -/
theorem IgnoresStore.whenUsable {body : State → Except Fault State} (hbody : IgnoresStore body) {s t : State}
    (h : whenUsable s (settle (body s)) = .next t) (m : Memory) :
    ∃ m', whenUsable (s.withStore m) (settle (body (s.withStore m))) = .next (t.withStore m') := by
  obtain ⟨hlaunched, hversion, hrun⟩ := whenUsable_next h
  obtain ⟨m', hbody'⟩ := hbody (settle_next hrun) m
  refine ⟨m', ?_⟩
  rw [whenUsable_of_launched (s := s.withStore m) hlaunched hversion, hbody']
  rfl

/-- Settles O29: each of the four bodies ignores the store. -/
theorem dataOperationsIgnoreTheStore : Obligations.DataOperationsIgnoreTheStore := by
  intro i s t m hi h
  obtain rfl | ⟨v, rfl⟩ | rfl | rfl := hi
  · exact readBody_ignoresStore.whenUsable h m
  · exact (writeBody_ignoresStore v).whenUsable h m
  · exact eraseBody_ignoresStore.whenUsable h m
  · exact getStatusBody_ignoresStore.whenUsable h m

end Sys2Proof.Machine
end

section
/-! The exception statements (spec 60_exceptions.md): which host words are refused (R92, R94, R336). -/

namespace Sys2Proof.Machine

/-! ### The words the decoder rejects -/

/-- RSV is tested first (R94). -/
theorem decodeHost_of_rsv {hc : HostWord} (hrsv : hc.extractLsb' 11 5 ≠ 0) :
    decodeHost hc = .error .reservedBits := if_pos hrsv

theorem decodeHost_of_reservedOp {hc : HostWord} (hrsv : hc.extractLsb' 11 5 = 0)
    (hop : 5 ≤ (hc.extractLsb' 8 3).toNat) : decodeHost hc = .error .reservedOp := by
  have hops : hc.extractLsb' 8 3 = 5 ∨ hc.extractLsb' 8 3 = 6 ∨ hc.extractLsb' 8 3 = 7 := by bv_omega
  rcases hops with hop | hop | hop <;> simp only [decodeHost, hrsv, hop] <;> rfl

theorem needZeroData_of_data {hc : HostWord} (hdata : hc.extractLsb' 0 8 ≠ 0) (i : Instr) :
    needZeroData hc i = .error .reservedBits := if_neg hdata

/-- Every operation but WRITE asks for DATA = 0 (R92). -/
theorem decodeHost_of_data {hc : HostWord} (hrsv : hc.extractLsb' 11 5 = 0) (hop : (hc.extractLsb' 8 3).toNat < 5)
    (hwrite : hc.extractLsb' 8 3 ≠ 2) (hdata : hc.extractLsb' 0 8 ≠ 0) : decodeHost hc = .error .reservedBits := by
  have hops : hc.extractLsb' 8 3 = 0 ∨ hc.extractLsb' 8 3 = 1 ∨ hc.extractLsb' 8 3 = 3 ∨ hc.extractLsb' 8 3 = 4 := by
    bv_omega
  rcases hops with hop | hop | hop | hop <;> simp only [decodeHost, hrsv, hop] <;> exact needZeroData_of_data hdata _

/-! ### The words of the data operations -/

/-- A word whose high byte is 0x02 is WRITE's, whatever its data byte (R91). -/
theorem hostWord_of_highByte {hc : HostWord} (h : hc.extractLsb' 8 8 = 0x02) : hc = 0x02#8 ++ hc.extractLsb' 0 8 := by
  have hfields : hc = hc.extractLsb' 8 8 ++ hc.extractLsb' 0 8 := by
    rw [BitVec.extractLsb'_append_extractLsb'_eq_extractLsb' (show 8 = 0 + 8 from rfl)]
    exact BitVec.extractLsb'_eq_self.symm
  rwa [h] at hfields

/-- The words of READ, WRITE, ERASE and GET_STATUS decode to them (R91). -/
theorem decodeHost_dataOperation {hc : HostWord}
    (h : hc = 0x0100 ∨ hc.extractLsb' 8 8 = 0x02 ∨ hc = 0x0300 ∨ hc = 0x0400) :
    ∃ i, (i = .read ∨ (∃ v, i = .write v) ∨ i = .erase ∨ i = .getStatus) ∧ decodeHost hc = .ok i := by
  obtain rfl | hwrite | rfl | rfl := h
  · exact ⟨.read, .inl rfl, rfl⟩
  · rw [hostWord_of_highByte hwrite]
    exact ⟨_, .inr (.inl ⟨_, rfl⟩), decodeHost_write _⟩
  · exact ⟨.erase, .inr (.inr (.inl rfl)), rfl⟩
  · exact ⟨.getStatus, .inr (.inr (.inr rfl)), rfl⟩

/-! ### The VERSION test -/

/-- A data operation is a body behind the guard of R94 and R336, and its body may fault but never refuses. -/
theorem exec_dataOperation {i : Instr} (h : i = .read ∨ (∃ v, i = .write v) ∨ i = .erase ∨ i = .getStatus)
    (s : State) : ∃ r, exec i s = whenUsable s (settle r) := by
  obtain rfl | ⟨v, rfl⟩ | rfl | rfl := h
  · exact ⟨readBody s, rfl⟩
  · exact ⟨writeBody v s, rfl⟩
  · exact ⟨eraseBody s, rfl⟩
  · exact ⟨getStatusBody s, rfl⟩

theorem whenUsable_of_unset {s : State} (h : Launched s) (hv : s.version = .unset) (o : Outcome) :
    whenUsable s o = .refused .notInitialized := by
  obtain ⟨hlaunch, hseq⟩ := h
  simp only [whenUsable, whenLaunched, hlaunch, hseq, hv, if_true]

theorem settle_ne_refused (r : Except Fault State) (ρ : Refusal) : settle r ≠ .refused ρ := by
  cases r <;> exact nofun

/-! ### The step -/

/-- A host word the decoder rejects is refused with the decoder's reason (R336). -/
theorem runRequest_of_decodeHost_error {hc : HostWord} {e : DecodeError} (h : decodeHost hc = .error e) (s : State) :
    runRequest (.host hc) s = .refused (refusalOf e) := by
  simp only [runRequest, decode, h]

/-- With no power loss pending the step runs the oldest word presented (R90). -/
theorem step_of_inbox_cons {s : State} {hc : HostWord} {rest : List HostWord} (h : Launched s) (hp : s.power = none)
    (hi : s.inbox = hc :: rest) : step s = runRequest (.host hc) { s with inbox := rest } := by
  rw [step_of_power_none hp, cycle_of_inbox_cons h hi]

/-- Settles O5: the decoder rejects the reserved words, INIT has no VERSION test, and a data operation's body, which
refuses nothing, stands behind one. -/
theorem hostWordRefusals : Obligations.HostWordRefusals := by
  intro s hc rest hl hp hi
  have hl' : Launched { s with inbox := rest } := hl
  rw [step_of_inbox_cons hl hp hi]
  refine ⟨fun hrsv => runRequest_of_decodeHost_error (decodeHost_of_rsv hrsv) _,
    fun hrsv hop => runRequest_of_decodeHost_error (decodeHost_of_reservedOp hrsv hop) _,
    fun hrsv hop hwrite hdata => runRequest_of_decodeHost_error (decodeHost_of_data hrsv hop hwrite hdata) _,
    fun hinit => ?init, fun hword => ?dataOperation⟩
  case init =>
    subst hinit
    exact ⟨_, (runRequest_of_decode (i := .init) rfl _).trans (exec_init_of_launched hl')⟩
  case dataOperation =>
    obtain ⟨i, hoperation, hdecode⟩ := decodeHost_dataOperation hword
    obtain ⟨r, hexec⟩ := exec_dataOperation hoperation { s with inbox := rest }
    rw [runRequest_of_decode (r := .host hc) hdecode, hexec]
    refine ⟨fun hv => whenUsable_of_unset hl' hv _, fun hv ρ => ?_⟩
    rw [whenUsable_of_launched hl' hv]
    exact settle_ne_refused r ρ

end Sys2Proof.Machine
end

section
/-! The termination statement (spec 70_reset_and_hazards.md R372): how many interface events a data operation adds at most.

The statements of 44_streaming.md name the state each operation leaves. The events of that state are counted procedure by
procedure; the longest part is the busy poll that ends a read page. -/

namespace Sys2Proof.Machine

/-! ### The events of each procedure -/

@[simp] theorem exchanged_events_length (os : List Byte) (s : State) :
    (exchanged os s).events.length = s.events.length + os.length := by
  simp [exchanged]

/-- `Select`, the frame, the polls and the tail, and `Release` unless the card stays selected (R150 to R155). -/
theorem afterSend_events_length (idx : BitVec 6) (arg : Word) (shape : Shape) (keep : Bool) (k : Nat) (s : State) :
    (afterSend idx arg shape keep k s).events.length =
      s.events.length + (7 + k + tailCount s shape (reply s (5 + k)) + if keep then 0 else 1) := by
  cases keep <;> simp [afterSend] <;> omega

theorem tailCount_le (s : State) (shape : Shape) (r1 : Byte) : tailCount s shape r1 ≤ tailLength shape := by
  unfold tailCount
  split <;> simp

@[simp] theorem afterReceive_events_length (n : Nat) (s : State) :
    (afterReceive n s).events.length = s.events.length + n :=
  (exchanged_events_length _ s).trans (by rw [List.length_replicate])

@[simp] theorem afterTransmit_events_length (vs : List Byte) (s : State) :
    (afterTransmit vs s).events.length = s.events.length + vs.length :=
  exchanged_events_length vs s

/-- A read page opens with a SEND of shape R1 that keeps the card selected, and the token wait (R230, R261). -/
theorem afterReadOpenPage_events_length (k j : Nat) (s : State) :
    (afterReadOpenPage k j s).events.length = s.events.length + (7 + k + j) := by
  simp only [afterReadOpenPage, afterReadOpen, exchanged_events_length, afterSend_events_length, tailCount_r1,
    List.length_replicate, if_true]
  omega

/-- A write page opens with a SEND of shape R1 that keeps the card selected, and the start token (R236, R267). -/
theorem afterWriteOpenPage_events_length (k : Nat) (s : State) :
    (afterWriteOpenPage k s).events.length = s.events.length + (8 + k) := by
  simp only [afterWriteOpenPage, exchanged_events_length, afterSend_events_length, tailCount_r1, List.length_singleton,
    if_true]
  omega

/-- PERSIST is one NV write for each record byte (R309). -/
@[simp] theorem persistWith_events_length (tag : List Byte) (s : State) :
    (persistWith tag s).events.length = s.events.length + recordBytes := by
  rw [persistWith_eq, List.length_append, imageEvents_length]
  rfl

/-- Two CRC bytes, the filler, the busy polls, `Release` and PERSIST (R233, R234, R263). -/
@[simp] theorem afterReadEnd_events_length (m : Nat) (s : State) :
    (afterReadEnd m s).events.length = s.events.length + (29 + m) := by
  simp only [afterReadEnd, afterReadClose, persistWith_events_length, List.length_append, exchanged_events_length,
    List.length_replicate, List.length_singleton, recordBytes]
  omega

/-- Two CRC bytes, the data response and `Release`; no busy poll follows (R238, R241). -/
theorem afterWriteClose_events_length (s : State) : (afterWriteClose s).events.length = s.events.length + 4 := by
  simp [afterWriteClose]

/-- PERSIST follows an accepted page only (R265). -/
theorem afterWriteEnd_events_length_le (s : State) : (afterWriteEnd s).events.length ≤ s.events.length + 29 := by
  unfold afterWriteEnd
  split
  · simp [afterWriteClose_events_length, recordBytes]
  · simp [afterWriteClose_events_length]

/-! ### The open page completed -/

/-- Completing an open read page, at worst from OFFSET 1 and with a card busy to the last poll (R266, R372). -/
theorem completed_read_events {s : State} (hs : Usable s) (hm : s.mode = .midRead) (h1 : 1 ≤ s.offset.toNat)
    (h511 : s.offset.toNat ≤ 511) : ∃ u, Completed s u ∧ u.events.length ≤ s.events.length + 66075 := by
  obtain ⟨m, ⟨-, hbusy, -⟩, hdone⟩ := completed_discard hs hm (by omega)
  refine ⟨_, hdone, ?_⟩
  simp only [afterReadDiscard, afterReadEnd_events_length, afterReceive_events_length]
  unfold busyPolls at hbusy
  omega

/-- Completing an open write page, at worst from OFFSET 1 and with an accepted page (R266). -/
theorem completed_write_events {s : State} (hs : Usable s) (hm : s.mode = .midWrite) (h1 : 1 ≤ s.offset.toNat)
    (h511 : s.offset.toNat ≤ 511) : ∃ u, Completed s u ∧ u.events.length ≤ s.events.length + 540 := by
  refine ⟨_, completed_pad hs hm (by omega), ?_⟩
  have hend := afterWriteEnd_events_length_le (afterTransmit (List.replicate (512 - s.offset.toNat) 0x00) s)
  rw [afterTransmit_events_length, List.length_replicate] at hend
  unfold afterWritePad
  omega

/-- With no page open there is nothing to complete (R266). -/
theorem completed_closed {s : State} (h : PageClosed s) : Completed s s := ⟨forceComplete_idle h.1, h⟩

/-- FORCE_COMPLETE's worst case is the open read page (R372). -/
theorem completed_events {s : State} (hs : Usable s) (hp : PageClosed s ∨ PageOpen s) :
    ∃ u, Completed s u ∧ u.events.length ≤ s.events.length + 66075 := by
  obtain hclosed | ⟨hread | hwrite, -, h1, h511⟩ := hp
  · exact ⟨s, completed_closed hclosed, by omega⟩
  · exact completed_read_events hs hread h1 h511
  · obtain ⟨u, hdone, hu⟩ := completed_write_events hs hwrite h1 h511
    exact ⟨u, hdone, by omega⟩

/-! ### The data operations -/

/-- The operation completes and adds at most `n` interface events. -/
def AddsAtMost (n : Nat) (s : State) (o : Outcome) : Prop :=
  ∃ t, o = .next t ∧ t.events.length ≤ s.events.length + n

theorem AddsAtMost.bound {n : Nat} {s t : State} {o : Outcome} (h : AddsAtMost n s o) (ht : o = .next t) :
    t.events.length ≤ s.events.length + n := by
  obtain ⟨u, hu, hbound⟩ := h
  cases hu.symm.trans ht
  exact hbound

/-- A result word is no interface event (R10, R93). -/
theorem addsAtMost_returnWord {n : Nat} {s t : State} {w : HostWord} {o : Outcome} (ho : o = .next (returnWord w t))
    (h : t.events.length ≤ s.events.length + n) : AddsAtMost n s o := ⟨_, ho, h⟩

/-- What runs after an open page is completed adds its events to the completion's. -/
theorem AddsAtMost.after {m n : Nat} {s u : State} {o : Outcome} (h : AddsAtMost n u o)
    (hu : u.events.length ≤ s.events.length + m) : AddsAtMost (m + n) s o := by
  obtain ⟨t, ht, hbound⟩ := h
  exact ⟨t, ht, by omega⟩

theorem AddsAtMost.mono {m n : Nat} {s : State} {o : Outcome} (h : AddsAtMost m s o) (hmn : m ≤ n) :
    AddsAtMost n s o := by
  obtain ⟨t, ht, hbound⟩ := h
  exact ⟨t, ht, by omega⟩

/-- READ with no page open: `Select`, the frame, 9 response and 255 token polls, one payload byte. -/
theorem read_opening_adds {s : State} (hs : Usable s) (hm : s.mode = .idle) : AddsAtMost 272 s (exec .read s) := by
  obtain ⟨k, j, ⟨-, hk, -⟩, ⟨-, hj, -⟩, hread⟩ := readOpensPage s hs hm
  refine addsAtMost_returnWord hread ?_
  simp only [afterReceive_events_length, afterReadOpenPage_events_length]
  unfold ncrPolls at hk
  unfold tokenPolls at hj
  omega

/-- READ in an open read page, at worst its last byte. -/
theorem read_continuing_adds {s : State} (hs : Usable s) (hm : s.mode = .midRead) :
    AddsAtMost 65565 s (exec .read s) := by
  by_cases hlast : s.offset = 511
  · obtain ⟨m, ⟨-, hbusy, -⟩, hread⟩ := readLastByte s hs hm hlast
    refine addsAtMost_returnWord hread ?_
    simp only [afterReadEnd_events_length, afterReceive_events_length]
    unfold busyPolls at hbusy
    omega
  · exact addsAtMost_returnWord (readInsidePage s hs hm hlast) (by simp)

theorem read_adds {s : State} (hs : Usable s) (hp : PageClosed s ∨ PageOpen s) : AddsAtMost 65565 s (exec .read s) := by
  obtain ⟨hidle, -⟩ | ⟨hread | hwrite, -, h1, h511⟩ := hp
  · exact (read_opening_adds hs hidle).mono (by omega)
  · exact read_continuing_adds hs hread
  · obtain ⟨u, hdone, hu⟩ := completed_write_events hs hwrite h1 h511
    rw [hdone.exec_read hs hwrite]
    exact ((read_opening_adds (hdone.usable hs) hdone.closed.1).after hu).mono (by omega)

/-- WRITE with no page open: `Select`, the frame, 9 response polls, the start token, one payload byte. -/
theorem write_opening_adds {s : State} (hs : Usable s) (hm : s.mode = .idle) (v : Byte) :
    AddsAtMost 18 s (exec (.write v) s) := by
  obtain ⟨k, ⟨-, hk, -⟩, hwrite⟩ := writeOpensPage s v hs hm
  refine addsAtMost_returnWord hwrite ?_
  simp only [afterTransmit_events_length, afterWriteOpenPage_events_length, List.length_singleton]
  unfold ncrPolls at hk
  omega

/-- WRITE in an open write page, at worst the last byte of an accepted page. -/
theorem write_continuing_adds {s : State} (hs : Usable s) (hm : s.mode = .midWrite) (v : Byte) :
    AddsAtMost 30 s (exec (.write v) s) := by
  by_cases hlast : s.offset = 511
  · have hend := afterWriteEnd_events_length_le (afterTransmit [v] s)
    rw [afterTransmit_events_length, List.length_singleton] at hend
    exact addsAtMost_returnWord (writeLastByte s v hs hm hlast) (by omega)
  · exact addsAtMost_returnWord (writeInsidePage s v hs hm hlast) (by simp)

theorem write_adds {s : State} (hs : Usable s) (hp : PageClosed s ∨ PageOpen s) (v : Byte) :
    AddsAtMost 66093 s (exec (.write v) s) := by
  obtain ⟨hidle, -⟩ | ⟨hread | hwrite, -, h1, h511⟩ := hp
  · exact (write_opening_adds hs hidle v).mono (by omega)
  · obtain ⟨u, hdone, hu⟩ := completed_read_events hs hread h1 h511
    rw [hdone.exec_write hs hread]
    exact (write_opening_adds (hdone.usable hs) hdone.closed.1 v).after hu
  · exact (write_continuing_adds hs hwrite v).mono (by omega)

/-- ERASE adds its own PERSIST to the completion (R272). -/
theorem erase_adds {s : State} (hs : Usable s) (hp : PageClosed s ∨ PageOpen s) : AddsAtMost 66100 s (exec .erase s) := by
  obtain ⟨u, hdone, hu⟩ := completed_events hs hp
  refine addsAtMost_returnWord (hdone.erase hs) ?_
  simp only [persistWith_events_length, recordBytes]
  omega

/-- GET_STATUS adds one SEND of shape R2 to the completion (R273). -/
theorem getStatus_adds {s : State} (hs : Usable s) (hp : PageClosed s ∨ PageOpen s) :
    AddsAtMost 66093 s (exec .getStatus s) := by
  obtain ⟨u, hdone, hu⟩ := completed_events hs hp
  obtain ⟨k, ⟨-, hk, -⟩, hstatus⟩ := hdone.getStatus hs
  refine addsAtMost_returnWord hstatus ?_
  have htail : tailCount u .r2 (reply u (5 + k)) ≤ 1 := tailCount_le u .r2 _
  simp only [afterSend_events_length, Bool.false_eq_true, if_false]
  unfold ncrPolls at hk
  omega

/-- A data operation completes from a state of the invariant only once the card is negotiated, and CID has then been
written (R34, R336). -/
theorem Inv.usable_of_whenUsable {s t : State} {o : Outcome} (hs : Inv s) (h : whenUsable s o = .next t) : Usable s := by
  obtain ⟨hlaunched, hversion, -⟩ := whenUsable_next h
  obtain ⟨-, hseq⟩ := id hlaunched
  obtain ⟨hcid, -⟩ := hs.described (by simp [hseq]) hversion
  exact ⟨hlaunched, hversion, hcid⟩

/-- Settles O28: R372's count for each operation, over the ways a page can be open. -/
theorem dataOperationEventBounds : Obligations.DataOperationEventBounds := by
  intro s t hs
  exact ⟨fun h => (read_adds (hs.usable_of_whenUsable h) hs.page).bound h,
    fun v h => (write_adds (hs.usable_of_whenUsable h) hs.page v).bound h,
    fun h => (erase_adds (hs.usable_of_whenUsable h) hs.page).bound h,
    fun h => (getStatus_adds (hs.usable_of_whenUsable h) hs.page).bound h⟩

end Sys2Proof.Machine
end
